-- ==== Sys2Proof/Word.lean ====
section
/-! DEFINITION. The word types: every register, address and the pc is 32 bits (00_scope.md R4, R6). -/

namespace Sys2Proof

/-- A register value, an address, the pc or an instruction word (00_scope.md R4: XLEN, ALEN, PCLEN, ILEN = 32). -/
abbrev Word := BitVec 32

/-- The unit of memory (20_memory.md R30: byte-addressed). -/
abbrev Byte := BitVec 8

/-- A register index, a 5-bit field of the instruction word (10_state.md R10, 30_encoding.md R56). -/
abbrev RegIdx := BitVec 5

end Sys2Proof
end

