-- ==== Sys2Proof/Syntax.lean ====
section
/-! DEFINITION. The instructions: one constructor per row of spec/opcode_table.json (30_encoding.md R66, R72). -/

namespace Sys2Proof

/-- An instruction with the raw fields of its word (30_encoding.md R56 to R65); a field keeps the width the
encoding gives it, so every value of the field is an operand. Fields the action ignores (R71) are kept, so that
the word can be written back. -/
inductive Instr where
  /-- Reg-reg arithmetic, division and logic: T0 to T9. -/
  | addW (rd rj rk : RegIdx)
  | subW (rd rj rk : RegIdx)
  | divW (rd rj rk : RegIdx)
  | modW (rd rj rk : RegIdx)
  | divWu (rd rj rk : RegIdx)
  | modWu (rd rj rk : RegIdx)
  | or (rd rj rk : RegIdx)
  | and (rd rj rk : RegIdx)
  | xor (rd rj rk : RegIdx)
  | nor (rd rj rk : RegIdx)
  /-- Immediate logic, `ui12` the raw field inst[21:10]: T10 to T12. -/
  | ori (rd rj : RegIdx) (ui12 : BitVec 12)
  | andi (rd rj : RegIdx) (ui12 : BitVec 12)
  | xori (rd rj : RegIdx) (ui12 : BitVec 12)
  /-- Immediate add: T13. -/
  | addiW (rd rj : RegIdx) (si12 : BitVec 12)
  /-- Compares: T14, T15. -/
  | slt (rd rj rk : RegIdx)
  | sltu (rd rj rk : RegIdx)
  /-- Register shifts: T16 to T18. -/
  | sllW (rd rj rk : RegIdx)
  | srlW (rd rj rk : RegIdx)
  | sraW (rd rj rk : RegIdx)
  /-- Immediate shifts: T19 to T21. -/
  | slliW (rd rj : RegIdx) (ui5 : BitVec 5)
  | srliW (rd rj : RegIdx) (ui5 : BitVec 5)
  | sraiW (rd rj : RegIdx) (ui5 : BitVec 5)
  /-- Multiplies: T22 to T24. -/
  | mulW (rd rj rk : RegIdx)
  | mulhW (rd rj rk : RegIdx)
  | mulhWu (rd rj rk : RegIdx)
  /-- Loads, `rd` the destination: T25 to T29. -/
  | ldB (rd rj : RegIdx) (si12 : BitVec 12)
  | ldH (rd rj : RegIdx) (si12 : BitVec 12)
  | ldW (rd rj : RegIdx) (si12 : BitVec 12)
  | ldBu (rd rj : RegIdx) (si12 : BitVec 12)
  | ldHu (rd rj : RegIdx) (si12 : BitVec 12)
  /-- Stores, `rd` the register whose value is stored: T30 to T32. -/
  | stB (rd rj : RegIdx) (si12 : BitVec 12)
  | stH (rd rj : RegIdx) (si12 : BitVec 12)
  | stW (rd rj : RegIdx) (si12 : BitVec 12)
  /-- Upper immediates: T33, T34. -/
  | pcaddu12i (rd : RegIdx) (si20 : BitVec 20)
  | lu12iW (rd : RegIdx) (si20 : BitVec 20)
  /-- Relative call and jump, the offset counted in words: T35, T36. -/
  | bl (offs26 : BitVec 26)
  | b (offs26 : BitVec 26)
  /-- Register-indirect jump and link: T37. -/
  | jirl (rd rj : RegIdx) (offs16 : BitVec 16)
  /-- Conditional branches, `rj` the left operand, `rd` the right one (R73, R160): T38 to T43. -/
  | beq (rj rd : RegIdx) (offs16 : BitVec 16)
  | bne (rj rd : RegIdx) (offs16 : BitVec 16)
  | blt (rj rd : RegIdx) (offs16 : BitVec 16)
  | bge (rj rd : RegIdx) (offs16 : BitVec 16)
  | bltu (rj rd : RegIdx) (offs16 : BitVec 16)
  | bgeu (rj rd : RegIdx) (offs16 : BitVec 16)
  /-- Barriers with their ignored hint inst[14:0]: T44, T45. -/
  | dbar (hint : BitVec 15)
  | ibar (hint : BitVec 15)
  /-- The optional immediate compares of R72. -/
  | slti (rd rj : RegIdx) (si12 : BitVec 12)
  | sltui (rd rj : RegIdx) (si12 : BitVec 12)
  /-- `break` with its ignored code inst[14:0]: T46 (`break` is a word of Lean's own). -/
  | brk (code : BitVec 15)
  /-- The catch-all with the word it was selected for: T47. -/
  | inv (word : Word)
deriving DecidableEq, Repr

end Sys2Proof
end

