-- ==== Sys2Proof/Config.lean ====
section
/-! DEFINITION. What an implementation fixes: the parameters of 00_scope.md R4, and the free values, which have no
body (the spec's draws, 00_scope.md R9). -/

namespace Sys2Proof

/-- The kind of a memory request (20_memory.md R38). -/
inductive AccessKind where
  | fetch
  | load
  | store
deriving DecidableEq, Repr

/-- The width of a memory request: 1, 2 or 4 bytes (20_memory.md R32). -/
inductive Width where
  | byte
  | half
  | word
deriving DecidableEq, Repr

/-- The four instructions 43_muldiv.md R138 speaks of. -/
inductive DivOp where
  | divW
  | modW
  | divWu
  | modWu
deriving DecidableEq, Repr

/-- A free value: the `n`-th draw of the run (00_scope.md R9 "draw", 43_muldiv.md R138). Log entry 7. -/
opaque Config.draw : Nat → Word

/-- A free value: the caller's total function of (instruction, x[rj]) under the function setting of `DIV0_POLICY`
(43_muldiv.md R138). Log entry 7. -/
opaque Config.divByZero : DivOp → Word → Word

/-- A free value: the initial content of a byte nothing has written, where such a byte may be read
(70_reset_and_hazards.md R209, 93_implementation_defined.md U11). Log entry 3. -/
opaque Config.initialByte : Nat → Byte

/-- A free predicate: the platform's own `MEM_ADMITS(addr, n, kind)` (20_memory.md R36, R41). Log entry 3. -/
opaque Config.platformAdmits : Word → Width → AccessKind → Bool

/-- `DIV0_POLICY` (43_muldiv.md R138 (a)). -/
inductive Div0Policy where
  /-- the step does not complete: `DivideFault` -/
  | fault
  /-- an unconstrained 32-bit value -/
  | draw
  /-- a total function of (instruction, x[rj]) -/
  | function
deriving DecidableEq, Repr

/-- `DIVOVF_POLICY` (43_muldiv.md R138 (b)). -/
inductive DivOvfPolicy where
  /-- the step does not complete: `DivideFault` -/
  | fault
  /-- an unconstrained 32-bit value -/
  | draw
  /-- the two's-complement wrap of the exact results -/
  | wrap
deriving DecidableEq, Repr

/-- `P_SHIFT_IMM_HI` (42_shift.md R120). -/
inductive ShiftImmHi where
  /-- the amount is `imm[4:0]` -/
  | mask
  /-- an immediate shift with `inst[14]` = 1 has no meaning in the model -/
  | refuse
deriving DecidableEq, Repr

/-- A range of addresses of the platform and the kinds of request it takes (20_memory.md R41). -/
structure Region where
  base  : Nat
  size  : Nat
  fetch : Bool
  load  : Bool
  store : Bool
deriving DecidableEq, Repr

/-- Which addresses exist, the first part of `MEM_ADMITS` (20_memory.md R36, R41). Log entry 3. -/
inductive Admission where
  /-- every address, for every kind -/
  | everything
  /-- a request is taken when every byte of it lies in a region that takes its kind -/
  | regions (rs : List Region)
  /-- the platform's own predicate `Config.platformAdmits` -/
  | platform
deriving DecidableEq, Repr

/-- Whether a byte that nothing has written or loaded can be read, the last part of `MEM_ADMITS`
(70_reset_and_hazards.md R209, 93_implementation_defined.md U11). Log entry 3. -/
inductive Unwritten where
  /-- `MEM_ADMITS` admits a read of written or loaded bytes only -/
  | rejected
  /-- the byte reads as any value, `Config.initialByte` -/
  | anyValue
deriving DecidableEq, Repr

/-- `TEMPLATE_OR2`, compiled (30_encoding.md R52, R69), and its position in the table. Log entry 9. -/
structure Or2 where
  mask     : Word
  expected : Word
  position : Nat
deriving DecidableEq, Repr

/-- The parameters of 00_scope.md R4 that the caller supplies. Log entry 4. -/
structure Params where
  /-- `TEMPLATE_OR2` -/
  or2          : Option Or2
  /-- `P_SLTI` -/
  pSlti        : Bool
  /-- `P_LOGIC_IMM_ZEXT` -/
  logicImmZext : Bool
  /-- `P_SHIFT_IMM_HI` -/
  shiftImmHi   : ShiftImmHi
  /-- `DIV0_POLICY` -/
  div0         : Div0Policy
  /-- `DIVOVF_POLICY` -/
  divOvf       : DivOvfPolicy
  /-- `LINK_REG` -/
  linkReg      : RegIdx
  /-- `EXIT_REG` -/
  exitReg      : RegIdx
  /-- `MEM_ADMITS`: which addresses exist -/
  memAdmits    : Admission
  /-- `MEM_ADMITS`: refuse every request whose address is not a multiple of its width (20_memory.md R36) -/
  alignedOnly  : Bool
  /-- `MEM_ADMITS`: bytes nothing has written -/
  unwritten    : Unwritten
deriving DecidableEq, Repr

/-- The values of 00_scope.md R4; `MEM_ADMITS`, OPEN there, admits every address and alignment and refuses to read
a byte nothing has written (DESIGN CHOICE, log entry 3). -/
def Params.standard : Params where
  or2          := none
  pSlti        := false
  logicImmZext := true
  shiftImmHi   := .mask
  div0         := .fault
  divOvf       := .fault
  linkReg      := 1
  exitReg      := 4
  memAdmits    := .everything
  alignedOnly  := false
  unwritten    := .rejected

end Sys2Proof
end

