-- ==== Sys2Proof/Machine/State.lean ====
section
/-! DEFINITION. The state of the machine as plain data (10_state.md R10 to R19, R27, R29), the events that stop the
ordinary flow (60_exceptions.md R185), and reset. -/

namespace Sys2Proof.Machine

/-- Memory: the bytes that have been loaded or written, as (address, byte) pairs, addresses strictly rising.
An unlisted address holds no value (log entry 3). -/
abbrev Memory := List Host.Cell

/-- Why a run is `faulted` (20_memory.md R38, 43_muldiv.md R138). -/
inductive FaultReason where
  /-- `MemFault(addr, n, kind)` -/
  | memory (addr : Word) (width : Width) (kind : AccessKind)
  /-- `DivideFault(pc)` -/
  | divide (pc : Word)
deriving DecidableEq, Repr

/-- The run status (10_state.md R19). -/
inductive Status where
  | running
  /-- the trap sink was called: the only successful end (40_step.md R92) -/
  | exited (pc code : Word)
  /-- the invalid sink was called -/
  | aborted (pc : Word)
  | faulted (reason : FaultReason)
deriving DecidableEq, Repr

/-- The events of 60_exceptions.md R185, with what each records. -/
inductive Event where
  /-- `Trap(pc, code)` (R186) -/
  | trap (pc code : Word)
  /-- `Invalid(pc)` (R187) -/
  | invalid (pc : Word)
  /-- `MemFault` and `DivideFault` (R188, R189) -/
  | fault (reason : FaultReason)
deriving DecidableEq, Repr

/-- The machine's state. -/
structure State where
  /-- x[0] to x[31] (10_state.md R10); cell 0 is a real cell (R12) -/
  regs   : Vector Word 32
  /-- the address of the instruction being executed (R14) -/
  pc     : Word
  /-- memory bytes (R27; 20_memory.md R30) -/
  mem    : Memory
  /-- run status (R19) -/
  status : Status
  /-- the caller's parameters (00_scope.md R4); no step writes them (log entry 4) -/
  params : Params
  /-- how many free values the run has drawn; the model's own field (log entry 8) -/
  draws  : Nat
deriving DecidableEq, Repr

/-- Why the machine answers no next state. -/
inductive Fault where
  /-- Raised by `step` alone, in a state whose status is not `running`: "no step is taken unless `status` is
  `running`" (10_state.md R19). Safe: nothing is provable of a step after the end of a run. -/
  | notRunning (status : Status)
deriving DecidableEq, Repr

/-- Why an instruction has no meaning in the model. -/
inductive Refusal where
  /-- Raised by an arm of `exec` whose instruction is not modelled; no arm is. Safe. -/
  | notModelled (mnemonic : String)
  /-- Raised by `slli.w`, `srli.w` and `srai.w` with an amount of 16 to 31 when the caller has set
  `P_SHIFT_IMM_HI = refuse`: "a refusal by the model, not a signal of the hardware" (42_shift.md R120, R127).
  Never raised under the default `mask`. Safe. -/
  | shiftImmHi (ui5 : BitVec 5)
deriving DecidableEq, Repr

/-- What a step or an instruction answers. -/
abbrev Result := Host.Outcome State Fault Refusal

/-- A start of a run as the caller chooses it (70_reset_and_hazards.md R205 to R210): the first pc, the values of the
registers (cell 0 holds 0 whatever is given: R207), the loaded memory and the parameters; `status` is `running`. -/
def State.boot (pc : Word) (regs : Vector Word 32) (mem : Memory) (params : Params) : State where
  regs   := regs.set 0 0
  pc     := pc
  mem    := mem
  status := .running
  params := params
  draws  := 0

/-- The machine right after reset (10_state.md R29). The first pc and the zeros in x[1] to x[31] are DESIGN CHOICES
(log entries 2 and 1): the spec gives no value for either. -/
def State.reset : State := State.boot 0x80000000 (Vector.replicate 32 0) [] Params.standard

end Sys2Proof.Machine
end

