-- ==== Sys2Proof/Machine/Ops.lean ====
section
/-! DEFINITION. The shared operations: registers, memory, the end of a completed step, and the events. -/

namespace Sys2Proof.Machine

/-! ## Registers (10_state.md R10, R12, R21) -/

/-- `x[r]`, the value the cell holds. -/
def State.reg (s : State) (r : RegIdx) : Word := s.regs[r.toNat]'r.isLt

/-- `x[r] <- v`; cell 0 takes the value like any other and is zeroed when the step completes (R12). -/
def State.setReg (s : State) (r : RegIdx) (v : Word) : State :=
  { s with regs := s.regs.set r.toNat v r.isLt }

/-- `snpc` = pc + 4 (40_step.md R82). -/
def State.snpc (s : State) : Word := s.pc + 4

/-- The end of a step that completes: `x[0] <- 0` (40_step.md R88), and the next pc is `dnpc` (R89). -/
def State.retire (s : State) (dnpc : Word) : State := { s.setReg 0 0 with pc := dnpc }

/-- An instruction whose whole effect is `x[rd] <- v`: it retires to `pc + 4`. -/
def State.writeBack (s : State) (rd : RegIdx) (v : Word) : State := (s.setReg rd v).retire s.snpc

/-! ## Events (60_exceptions.md R185 to R193) -/

/-- Taking an event, as 40_step.md R91 gives the state afterwards. `Trap` and `Invalid` call their sink, zero
register 0 and change nothing else; a fault changes nothing but `status`. No event saves a register, changes a mode
or goes to a handler (R192), and there is no return from one (R193). The pc is left alone (log entry 6). -/
def State.raiseEvent (s : State) (e : Event) : State :=
  match e with
  | .trap pc code => { s.setReg 0 0 with status := .exited pc code }
  | .invalid pc   => { s.setReg 0 0 with status := .aborted pc }
  | .fault reason => { s with status := .faulted reason }

/-! ## Memory cells -/

/-- The byte at an address, if one has been loaded or written. -/
def memRead (m : Memory) (a : Nat) : Option Byte :=
  match m with
  | []          => none
  | (b, v) :: m => if a = b then some v else memRead m a

/-- Writing a byte keeps the addresses strictly rising. -/
def memWrite (m : Memory) (a : Nat) (v : Byte) : Memory :=
  match m with
  | []          => [(a, v)]
  | (b, u) :: m =>
    if a < b then (a, v) :: (b, u) :: m
    else if a = b then (a, v) :: m
    else (b, u) :: memWrite m a v

/-- Every address of the list is above `low`, strictly rising, and below 2^32. -/
def memRising (low : Nat) (m : Memory) : Bool :=
  match m with
  | []          => true
  | (b, _) :: m => decide (low ≤ b) && decide (b < 2 ^ 32) && memRising (b + 1) m

/-- The canonical form of memory: addresses of the 32-bit space (20_memory.md R30), strictly rising. An unlisted
address holds no value, so no entry can equal what an unlisted address reads as. -/
def Memory.wf (m : Memory) : Bool := memRising 0 m

/-! ## Requests (20_memory.md R32 to R38, R48) -/

/-- The number of bytes of a request. -/
def widthBytes (w : Width) : Nat :=
  match w with
  | .byte => 1
  | .half => 2
  | .word => 4

/-- The address of byte `i` of a request, modulo 2^32 (R33, R34, R48). -/
def byteAddr (addr : Word) (i : Nat) : Nat := (addr + BitVec.ofNat 32 i).toNat

/-- What a read of one byte gives: the latest write or the initial content (R43). -/
def State.byteAt (s : State) (a : Nat) : Byte := (memRead s.mem a).getD (Config.initialByte a)

/-- The kinds of request a region takes. -/
def regionTakes (r : Region) (kind : AccessKind) : Bool :=
  match kind with
  | .fetch => r.fetch
  | .load  => r.load
  | .store => r.store

/-- One byte of a request lies in a region that takes its kind. -/
def regionsAdmit (rs : List Region) (kind : AccessKind) (a : Nat) : Bool :=
  rs.any (fun r => decide (r.base ≤ a) && decide (a < r.base + r.size) && regionTakes r kind)

/-- Which addresses exist (R36, R41). -/
def addressesAdmit (m : Admission) (addr : Word) (w : Width) (kind : AccessKind) : Bool :=
  match m with
  | .everything => true
  | .regions rs => (List.range (widthBytes w)).all (fun i => regionsAdmit rs kind (byteAddr addr i))
  | .platform   => Config.platformAdmits addr w kind

/-- The bytes of a request have all been loaded or written. -/
def State.written (s : State) (addr : Word) (w : Width) : Bool :=
  (List.range (widthBytes w)).all (fun i => (memRead s.mem (byteAddr addr i)).isSome)

/-- `MEM_ADMITS(addr, n, kind)` (R36 to R38; 70_reset_and_hazards.md R209; log entry 3). -/
def State.admits (s : State) (addr : Word) (w : Width) (kind : AccessKind) : Bool :=
  addressesAdmit s.params.memAdmits addr w kind
    && (!s.params.alignedOnly || addr.toNat % (widthBytes w) == 0)
    && (kind == .store || s.params.unwritten == .anyValue || s.written addr w)

/-- The raw bits of `MemRead(addr, n)`, in the low `8n` bits: the byte at the lowest address lowest (R33, R35). -/
def State.readRaw (s : State) (addr : Word) (n : Nat) : Word :=
  match n with
  | 0     => 0
  | n + 1 => (s.byteAt addr.toNat).setWidth 32 ||| (s.readRaw (addr + 1) n <<< 8)

/-- The memory after `MemWrite(addr, n, v)`: byte `addr + i` receives `v[8i+7:8i]` (R34, R35). -/
def writeRaw (m : Memory) (addr : Word) (n : Nat) (v : Word) : Memory :=
  match n with
  | 0     => m
  | n + 1 => writeRaw (memWrite m addr.toNat (v.setWidth 8)) (addr + 1) n (v >>> 8)

/-- `MemWrite(addr, n, v)`. -/
def State.store (s : State) (addr : Word) (n : Nat) (v : Word) : State :=
  { s with mem := writeRaw s.mem addr n v }

end Sys2Proof.Machine
end

