-- ==== Sys2Proof/Machine/Flags.lean ====
section
/-! DEFINITION. The hardware has no flags (10_state.md R18). Its comparisons, which other machines take from flags,
are here: those of the set-on-compare instructions and of the conditional branches. -/

namespace Sys2Proof.Machine

/-- `s(a) < s(b)` (00_scope.md R6). -/
def ltSigned (a b : Word) : Bool := decide (a.toInt < b.toInt)

/-- `u(a) < u(b)` (00_scope.md R6). -/
def ltUnsigned (a b : Word) : Bool := decide (a.toNat < b.toNat)

/-- The full 32-bit result of a compare, 1 or 0 (41_alu.md R117). -/
def boolWord (c : Bool) : Word := if c then 1 else 0

end Sys2Proof.Machine
end

