-- ==== Sys2Proof/Machine/Operands.lean ====
section
/-! DEFINITION. The addressing-mode multiplexer (30_encoding.md R58 to R65): the immediates and the Operand Set of
each tag, from the raw fields of the instruction. -/

namespace Sys2Proof.Machine

/-! ## Extension (00_scope.md R7) -/

/-- `sext_5` (30_encoding.md R64). -/
def sext5 (i : BitVec 5) : Word := i.signExtend 32
/-- `sext_12` (R60). -/
def sext12 (i : BitVec 12) : Word := i.signExtend 32
/-- `sext_16` (R61). -/
def sext16 (i : BitVec 16) : Word := i.signExtend 32
/-- `sext_20` (R62). -/
def sext20 (i : BitVec 20) : Word := i.signExtend 32
/-- `sext_26` (R63). -/
def sext26 (i : BitVec 26) : Word := i.signExtend 32

/-- The Operand Set (10_state.md R16), transient. A member that a tag does not produce is 0 and no action of that
tag uses it (log entry 19). -/
structure OperandSet where
  src1 : Word := 0
  src2 : Word := 0
  imm  : Word := 0

/-- Tag reg-reg: `src1 = x[rj]`, `src2 = x[rk]`. -/
def regReg (s : State) (rj rk : RegIdx) : OperandSet := { src1 := s.reg rj, src2 := s.reg rk }

/-- Tag reg+imm12s: `src1 = x[rj]`, `imm = sext_12(inst[21:10])`. -/
def regImm12s (s : State) (rj : RegIdx) (i : BitVec 12) : OperandSet := { src1 := s.reg rj, imm := sext12 i }

/-- Tag reg+imm12u: the same operands as reg+imm12s; the action masks (R59, R60). -/
def regImm12u (s : State) (rj : RegIdx) (i : BitVec 12) : OperandSet := { src1 := s.reg rj, imm := sext12 i }

/-- Tag reg+imm16s: `src1 = x[rj]`, `imm = sext_16(inst[25:10])`. -/
def regImm16s (s : State) (rj : RegIdx) (i : BitVec 16) : OperandSet := { src1 := s.reg rj, imm := sext16 i }

/-- Tag reg+imm20s: `imm = sext_20(inst[24:5])`. The `x[rj]` of the tag's row is not an architectural read
(10_state.md R13). -/
def regImm20s (i : BitVec 20) : OperandSet := { imm := sext20 i }

/-- Tag imm26s: `imm = sext_26(inst[9:0] ++ inst[25:10])`. -/
def imm26s (i : BitVec 26) : OperandSet := { imm := sext26 i }

/-- Tag reg+imm5u: `src1 = x[rj]`, `imm = sext_5(inst[14:10])` (R64). -/
def regImm5u (s : State) (rj : RegIdx) (i : BitVec 5) : OperandSet := { src1 := s.reg rj, imm := sext5 i }

/-- Tag hint16: `imm = sext_16(inst[15:0])`, whose bit 15 the pattern of `break` fixes to 0; no action uses it
(R65). -/
def hint16 (h : BitVec 15) : OperandSet := { imm := sext16 (h.setWidth 16) }

/-- Tag none: no operand (R65). -/
def noOperand : OperandSet := {}

/-! ## What the actions make of an immediate -/

/-- The operand of `andi`, `ori`, `xori`: `imm & 0xFFF` under `P_LOGIC_IMM_ZEXT`, else `imm` (R60; 41_alu.md R107). -/
def State.logicImm (s : State) (imm : Word) : Word := if s.params.logicImmZext then imm &&& 0x00000FFF else imm

/-- The shift amount `v[4:0]` (42_shift.md R120). -/
def shiftAmount (v : Word) : Nat := (v.extractLsb' 0 5).toNat

/-- The effective address of a load or store: base plus displacement modulo 2^32 (44_loadstore.md R145). -/
def effectiveAddr (s : State) (rj : RegIdx) (si12 : BitVec 12) : Word :=
  (regImm12s s rj si12).src1 + (regImm12s s rj si12).imm

/-- The target of a pc-relative transfer: `pc + (imm << 2)` (45_branch.md R160, R167, R168). -/
def State.relTarget (s : State) (imm : Word) : Word := s.pc + (imm <<< 2)

end Sys2Proof.Machine
end

