-- ==== Sys2Proof/Machine/Alu.lean ====
section
/-! DEFINITION. Add, subtract, compare, logic and upper immediates (41_alu.md R100 to R117). -/

namespace Sys2Proof.Machine

/-- R100. -/
def execAddW (rd rj rk : RegIdx) (s : State) : Result :=
  .next (s.writeBack rd ((regReg s rj rk).src1 + (regReg s rj rk).src2))

/-- R101. -/
def execSubW (rd rj rk : RegIdx) (s : State) : Result :=
  .next (s.writeBack rd ((regReg s rj rk).src1 - (regReg s rj rk).src2))

/-- R102. -/
def execNor (rd rj rk : RegIdx) (s : State) : Result :=
  .next (s.writeBack rd (~~~((regReg s rj rk).src1 ||| (regReg s rj rk).src2)))

/-- R103. -/
def execAnd (rd rj rk : RegIdx) (s : State) : Result :=
  .next (s.writeBack rd ((regReg s rj rk).src1 &&& (regReg s rj rk).src2))

/-- R104. -/
def execOr (rd rj rk : RegIdx) (s : State) : Result :=
  .next (s.writeBack rd ((regReg s rj rk).src1 ||| (regReg s rj rk).src2))

/-- R105. -/
def execXor (rd rj rk : RegIdx) (s : State) : Result :=
  .next (s.writeBack rd ((regReg s rj rk).src1 ^^^ (regReg s rj rk).src2))

/-- R110. -/
def execSlt (rd rj rk : RegIdx) (s : State) : Result :=
  .next (s.writeBack rd (boolWord (ltSigned (regReg s rj rk).src1 (regReg s rj rk).src2)))

/-- R111. -/
def execSltu (rd rj rk : RegIdx) (s : State) : Result :=
  .next (s.writeBack rd (boolWord (ltUnsigned (regReg s rj rk).src1 (regReg s rj rk).src2)))

/-- R106. -/
def execAddiW (rd rj : RegIdx) (si12 : BitVec 12) (s : State) : Result :=
  .next (s.writeBack rd ((regImm12s s rj si12).src1 + (regImm12s s rj si12).imm))

/-- R107. -/
def execAndi (rd rj : RegIdx) (ui12 : BitVec 12) (s : State) : Result :=
  .next (s.writeBack rd ((regImm12u s rj ui12).src1 &&& s.logicImm (regImm12u s rj ui12).imm))

/-- R108. -/
def execOri (rd rj : RegIdx) (ui12 : BitVec 12) (s : State) : Result :=
  .next (s.writeBack rd ((regImm12u s rj ui12).src1 ||| s.logicImm (regImm12u s rj ui12).imm))

/-- R109. -/
def execXori (rd rj : RegIdx) (ui12 : BitVec 12) (s : State) : Result :=
  .next (s.writeBack rd ((regImm12u s rj ui12).src1 ^^^ s.logicImm (regImm12u s rj ui12).imm))

/-- R112. -/
def execLu12iW (rd : RegIdx) (si20 : BitVec 20) (s : State) : Result :=
  .next (s.writeBack rd ((regImm20s si20).imm <<< 12))

/-- R113. -/
def execPcaddu12i (rd : RegIdx) (si20 : BitVec 20) (s : State) : Result :=
  .next (s.writeBack rd (s.pc + ((regImm20s si20).imm <<< 12)))

/-- R114. -/
def execSlti (rd rj : RegIdx) (si12 : BitVec 12) (s : State) : Result :=
  .next (s.writeBack rd (boolWord (ltSigned (regImm12s s rj si12).src1 (regImm12s s rj si12).imm)))

/-- R115: the sign-extended immediate read as unsigned. -/
def execSltui (rd rj : RegIdx) (si12 : BitVec 12) (s : State) : Result :=
  .next (s.writeBack rd (boolWord (ltUnsigned (regImm12s s rj si12).src1 (regImm12s s rj si12).imm)))

end Sys2Proof.Machine
end

