-- ==== Sys2Proof/Machine/Branch.lean ====
section
/-! DEFINITION. Branches, jumps, call and return (45_branch.md R160 to R171). -/

namespace Sys2Proof.Machine

/-- A conditional branch: the relative target if taken, else `pc + 4` (R160). -/
def State.branch (s : State) (taken : Bool) (imm : Word) : State :=
  s.retire (if taken then s.relTarget imm else s.snpc)

/-- R161. -/
def execBeq (rj rd : RegIdx) (offs16 : BitVec 16) (s : State) : Result :=
  .next (s.branch ((regImm16s s rj offs16).src1 == s.reg rd) (regImm16s s rj offs16).imm)

/-- R162. -/
def execBne (rj rd : RegIdx) (offs16 : BitVec 16) (s : State) : Result :=
  .next (s.branch ((regImm16s s rj offs16).src1 != s.reg rd) (regImm16s s rj offs16).imm)

/-- R163. -/
def execBlt (rj rd : RegIdx) (offs16 : BitVec 16) (s : State) : Result :=
  .next (s.branch (ltSigned (regImm16s s rj offs16).src1 (s.reg rd)) (regImm16s s rj offs16).imm)

/-- R164. -/
def execBge (rj rd : RegIdx) (offs16 : BitVec 16) (s : State) : Result :=
  .next (s.branch (!ltSigned (regImm16s s rj offs16).src1 (s.reg rd)) (regImm16s s rj offs16).imm)

/-- R165. -/
def execBltu (rj rd : RegIdx) (offs16 : BitVec 16) (s : State) : Result :=
  .next (s.branch (ltUnsigned (regImm16s s rj offs16).src1 (s.reg rd)) (regImm16s s rj offs16).imm)

/-- R166. -/
def execBgeu (rj rd : RegIdx) (offs16 : BitVec 16) (s : State) : Result :=
  .next (s.branch (!ltUnsigned (regImm16s s rj offs16).src1 (s.reg rd)) (regImm16s s rj offs16).imm)

/-- R167. -/
def execB (offs26 : BitVec 26) (s : State) : Result :=
  .next (s.retire (s.relTarget (imm26s offs26).imm))

/-- R168: the return address goes to `LINK_REG`. -/
def execBl (offs26 : BitVec 26) (s : State) : Result :=
  .next ((s.setReg s.params.linkReg s.snpc).retire (s.relTarget (imm26s offs26).imm))

/-- R169: the target is computed from the old `x[rj]`; its low bits are not cleared. -/
def execJirl (rd rj : RegIdx) (offs16 : BitVec 16) (s : State) : Result :=
  .next ((s.setReg rd s.snpc).retire ((regImm16s s rj offs16).src1 + ((regImm16s s rj offs16).imm <<< 2)))

end Sys2Proof.Machine
end

