-- ==== Sys2Proof/Machine/LoadStore.lean ====
section
/-! DEFINITION. Loads and stores (44_loadstore.md R145 to R156). -/

namespace Sys2Proof.Machine

/-! ## Extension of the raw bits of a load (R156) -/

/-- `sext_8` of the low 8 bits. -/
def sextByte (v : Word) : Word := (v.setWidth 8).signExtend 32
/-- `zext_8` of the low 8 bits. -/
def zextByte (v : Word) : Word := (v.setWidth 8).setWidth 32
/-- `sext_16` of the low 16 bits. -/
def sextHalf (v : Word) : Word := (v.setWidth 16).signExtend 32
/-- `zext_16` of the low 16 bits. -/
def zextHalf (v : Word) : Word := (v.setWidth 16).setWidth 32

/-- A load: one request at `ea` whatever `rd` is (R155), its raw bits given to `extend`; `MemFault` if the memory does
not admit it (20_memory.md R38). -/
def State.loadInto (s : State) (w : Width) (extend : Word → Word) (rd : RegIdx) (ea : Word) : State :=
  if s.admits ea w .load then s.writeBack rd (extend (s.readRaw ea (widthBytes w)))
  else s.raiseEvent (.fault (.memory ea w .load))

/-- A store of the low bytes of `v` at `ea`; `MemFault` if the memory does not admit it (R38). -/
def State.storeFrom (s : State) (w : Width) (ea v : Word) : State :=
  if s.admits ea w .store then (s.store ea (widthBytes w) v).retire s.snpc
  else s.raiseEvent (.fault (.memory ea w .store))

/-- R147. -/
def execLdB (rd rj : RegIdx) (si12 : BitVec 12) (s : State) : Result :=
  .next (s.loadInto .byte sextByte rd (effectiveAddr s rj si12))

/-- R148. -/
def execLdH (rd rj : RegIdx) (si12 : BitVec 12) (s : State) : Result :=
  .next (s.loadInto .half sextHalf rd (effectiveAddr s rj si12))

/-- R149: a word fills the register. -/
def execLdW (rd rj : RegIdx) (si12 : BitVec 12) (s : State) : Result :=
  .next (s.loadInto .word id rd (effectiveAddr s rj si12))

/-- R150. -/
def execLdBu (rd rj : RegIdx) (si12 : BitVec 12) (s : State) : Result :=
  .next (s.loadInto .byte zextByte rd (effectiveAddr s rj si12))

/-- R151. -/
def execLdHu (rd rj : RegIdx) (si12 : BitVec 12) (s : State) : Result :=
  .next (s.loadInto .half zextHalf rd (effectiveAddr s rj si12))

/-- R152; the data register is `rd` (R146). -/
def execStB (rd rj : RegIdx) (si12 : BitVec 12) (s : State) : Result :=
  .next (s.storeFrom .byte (effectiveAddr s rj si12) (s.reg rd))

/-- R153. -/
def execStH (rd rj : RegIdx) (si12 : BitVec 12) (s : State) : Result :=
  .next (s.storeFrom .half (effectiveAddr s rj si12) (s.reg rd))

/-- R154. -/
def execStW (rd rj : RegIdx) (si12 : BitVec 12) (s : State) : Result :=
  .next (s.storeFrom .word (effectiveAddr s rj si12) (s.reg rd))

end Sys2Proof.Machine
end

