-- ==== Sys2Proof/Machine/MulDiv.lean ====
section
/-! DEFINITION. Multiply, divide and remainder (43_muldiv.md R130 to R139). -/

namespace Sys2Proof.Machine

/-! ## Multiplies: the exact product, then the half that is kept -/

/-- `(a * b)[31:0]` (R131). -/
def mulLow (a b : Word) : Word := BitVec.ofNat 32 (a.toNat * b.toNat)

/-- `p[63:32]` of the signed product `p`, that is `floor(p / 2^32)` modulo 2^32 (R132). -/
def mulHighSigned (a b : Word) : Word := BitVec.ofInt 32 ((a.toInt * b.toInt) / 2 ^ 32)

/-- `p[63:32]` of the unsigned product `p` (R133). -/
def mulHighUnsigned (a b : Word) : Word := BitVec.ofNat 32 ((a.toNat * b.toNat) / 2 ^ 32)

/-- R131. -/
def execMulW (rd rj rk : RegIdx) (s : State) : Result :=
  .next (s.writeBack rd (mulLow (regReg s rj rk).src1 (regReg s rj rk).src2))

/-- R132. -/
def execMulhW (rd rj rk : RegIdx) (s : State) : Result :=
  .next (s.writeBack rd (mulHighSigned (regReg s rj rk).src1 (regReg s rj rk).src2))

/-- R133. -/
def execMulhWu (rd rj rk : RegIdx) (s : State) : Result :=
  .next (s.writeBack rd (mulHighUnsigned (regReg s rj rk).src1 (regReg s rj rk).src2))

/-! ## Divides -/

/-- The exact result where R134 to R137 give one: the quotient truncates toward zero, the remainder has the sign of
the dividend. -/
def divExact (op : DivOp) (a b : Word) : Word :=
  match op with
  | .divW  => BitVec.ofInt 32 (a.toInt.tdiv b.toInt)
  | .modW  => BitVec.ofInt 32 (a.toInt - a.toInt.tdiv b.toInt * b.toInt)
  | .divWu => BitVec.ofNat 32 (a.toNat / b.toNat)
  | .modWu => BitVec.ofNat 32 (a.toNat % b.toNat)

/-- The signed overflow pair of R138 (b); the unsigned divides have none (R136, R137). -/
def divOverflows (op : DivOp) (a b : Word) : Bool :=
  match op with
  | .divW  => a == 0x80000000 && b == 0xFFFFFFFF
  | .modW  => a == 0x80000000 && b == 0xFFFFFFFF
  | .divWu => false
  | .modWu => false

/-- The results of the overflow pair under `DIVOVF_POLICY = wrap` (R138 (b)). -/
def divWrapped (op : DivOp) : Word :=
  match op with
  | .divW => 0x80000000
  | _     => 0

/-- `DivideFault(pc)`: the step does not complete (R138). -/
def State.divideFault (s : State) : State := s.raiseEvent (.fault (.divide s.pc))

/-- The destination receives an unconstrained value: the next draw (R138; log entry 7). -/
def State.drawInto (s : State) (rd : RegIdx) : State :=
  { s.writeBack rd (Config.draw s.draws) with draws := s.draws + 1 }

/-- Divisor zero under `DIV0_POLICY` (R138 (a)), whatever `rd` is (R139). -/
def State.divByZero (s : State) (op : DivOp) (rd : RegIdx) (a : Word) : State :=
  match s.params.div0 with
  | .fault    => s.divideFault
  | .draw     => s.drawInto rd
  | .function => s.writeBack rd (Config.divByZero op a)

/-- The overflow pair under `DIVOVF_POLICY` (R138 (b)). -/
def State.divOverflow (s : State) (op : DivOp) (rd : RegIdx) : State :=
  match s.params.divOvf with
  | .fault => s.divideFault
  | .draw  => s.drawInto rd
  | .wrap  => s.writeBack rd (divWrapped op)

/-- The state after a divide of `a` by `b` (R134 to R139). -/
def State.divide (s : State) (op : DivOp) (rd : RegIdx) (a b : Word) : State :=
  if b = 0 then s.divByZero op rd a
  else if divOverflows op a b then s.divOverflow op rd
  else s.writeBack rd (divExact op a b)

/-- R134. -/
def execDivW (rd rj rk : RegIdx) (s : State) : Result :=
  .next (s.divide .divW rd (regReg s rj rk).src1 (regReg s rj rk).src2)

/-- R135. -/
def execModW (rd rj rk : RegIdx) (s : State) : Result :=
  .next (s.divide .modW rd (regReg s rj rk).src1 (regReg s rj rk).src2)

/-- R136. -/
def execDivWu (rd rj rk : RegIdx) (s : State) : Result :=
  .next (s.divide .divWu rd (regReg s rj rk).src1 (regReg s rj rk).src2)

/-- R137. -/
def execModWu (rd rj rk : RegIdx) (s : State) : Result :=
  .next (s.divide .modWu rd (regReg s rj rk).src1 (regReg s rj rk).src2)

end Sys2Proof.Machine
end

