-- ==== Sys2Proof/Machine/Shift.lean ====
section
/-! DEFINITION. Shifts (42_shift.md R120 to R127). -/

namespace Sys2Proof.Machine

/-- R121. -/
def execSllW (rd rj rk : RegIdx) (s : State) : Result :=
  .next (s.writeBack rd ((regReg s rj rk).src1 <<< shiftAmount (regReg s rj rk).src2))

/-- R122. -/
def execSrlW (rd rj rk : RegIdx) (s : State) : Result :=
  .next (s.writeBack rd ((regReg s rj rk).src1 >>> shiftAmount (regReg s rj rk).src2))

/-- R123. -/
def execSraW (rd rj rk : RegIdx) (s : State) : Result :=
  .next (s.writeBack rd ((regReg s rj rk).src1.sshiftRight (shiftAmount (regReg s rj rk).src2)))

/-- The immediate forms under `P_SHIFT_IMM_HI` (R120): under `refuse` a form with inst[14] = 1 has no meaning; under
`mask`, the default, every form has its effect. Log entry 15. -/
def State.shiftImm (s : State) (rd : RegIdx) (ui5 : BitVec 5) (v : Word) : Result :=
  if s.params.shiftImmHi = .refuse ∧ ui5.msb = true then .refused (.shiftImmHi ui5)
  else .next (s.writeBack rd v)

/-- R124. -/
def execSlliW (rd rj : RegIdx) (ui5 : BitVec 5) (s : State) : Result :=
  s.shiftImm rd ui5 ((regImm5u s rj ui5).src1 <<< shiftAmount (regImm5u s rj ui5).imm)

/-- R125. -/
def execSrliW (rd rj : RegIdx) (ui5 : BitVec 5) (s : State) : Result :=
  s.shiftImm rd ui5 ((regImm5u s rj ui5).src1 >>> shiftAmount (regImm5u s rj ui5).imm)

/-- R126. -/
def execSraiW (rd rj : RegIdx) (ui5 : BitVec 5) (s : State) : Result :=
  s.shiftImm rd ui5 ((regImm5u s rj ui5).src1.sshiftRight (shiftAmount (regImm5u s rj ui5).imm))

end Sys2Proof.Machine
end

