-- ==== Sys2Proof/Machine/System.lean ====
section
/-! DEFINITION. Barriers, trap, catch-all (46_system.md R176 to R180). -/

namespace Sys2Proof.Machine

/-- R176: nothing but the end of a completed step; the hint is ignored. -/
def execDbar (_hint : BitVec 15) (s : State) : Result := .next (s.retire s.snpc)

/-- R177: as R176. -/
def execIbar (_hint : BitVec 15) (s : State) : Result := .next (s.retire s.snpc)

/-- R178: `Trap(pc, x[EXIT_REG])`; the code field is ignored. -/
def execBrk (_code : BitVec 15) (s : State) : Result :=
  .next (s.raiseEvent (.trap s.pc (s.reg s.params.exitReg)))

/-- R179: `Invalid(pc)`; the word is not part of the signal. -/
def execInv (_word : Word) (s : State) : Result := .next (s.raiseEvent (.invalid s.pc))

end Sys2Proof.Machine
end

