-- ==== Sys2Proof/Decode.lean ====
section
/-! DEFINITION. The decoder of 30_encoding.md: field extractor, pattern language, ordered template table, priority
encoder; then the encoder, written from the formats of R57 and the opcodes of R66. -/

namespace Sys2Proof

/-! ## Field extractor (R56) and immediate fields (R59 to R65) -/

/-- `rd` = inst[4:0]. -/
def rdField (w : Word) : RegIdx := w.extractLsb' 0 5
/-- `rj` = inst[9:5]. -/
def rjField (w : Word) : RegIdx := w.extractLsb' 5 5
/-- `rk` = inst[14:10]. -/
def rkField (w : Word) : RegIdx := w.extractLsb' 10 5
/-- inst[14:10] of tag reg+imm5u (R64). -/
def imm5Field (w : Word) : BitVec 5 := w.extractLsb' 10 5
/-- inst[21:10] of tags reg+imm12s and reg+imm12u (R60). -/
def imm12Field (w : Word) : BitVec 12 := w.extractLsb' 10 12
/-- inst[25:10] of tag reg+imm16s (R61). -/
def imm16Field (w : Word) : BitVec 16 := w.extractLsb' 10 16
/-- inst[24:5] of tag reg+imm20s (R62). -/
def imm20Field (w : Word) : BitVec 20 := w.extractLsb' 5 20
/-- inst[9:0] ++ inst[25:10] of tag imm26s (R63). -/
def imm26Field (w : Word) : BitVec 26 := w.extractLsb' 0 10 ++ w.extractLsb' 10 16
/-- inst[14:0], the ignored code or hint of `break`, `dbar`, `ibar` (R71). -/
def imm15Field (w : Word) : BitVec 15 := w.extractLsb' 0 15

/-! ## Pattern language (R51, R52) -/

/-- One symbol of a pattern appended on the right of a compiled (mask, expectedBits, length); whitespace is
skipped, any other character refuses the pattern (R51, 92_eei_decisions.md D28). -/
def patternSymbol (acc : Option (Word × Word × Nat)) (c : Char) : Option (Word × Word × Nat) :=
  match acc with
  | none => none
  | some (m, e, n) =>
    if c = '0' then some ((m <<< 1) ||| 1, e <<< 1, n + 1)
    else if c = '1' then some ((m <<< 1) ||| 1, (e <<< 1) ||| 1, n + 1)
    else if c = '?' then some (m <<< 1, e <<< 1, n + 1)
    else if c.isWhitespace then some (m, e, n)
    else none

/-- A pattern, bit 31 first, compiled to (mask, expectedBits); refused unless it has 32 symbols (R51, R52). -/
def compilePattern (cs : List Char) : Option (Word × Word) :=
  match cs.foldl patternSymbol (some (0, 0, 0)) with
  | some (m, e, n) => if n = 32 then some (m, e) else none
  | none => none

/-- `TEMPLATE_OR2 = (pattern, position)` as the parameter the table takes; refused if the pattern is malformed
(R69, D28). -/
def or2OfPattern (cs : List Char) (position : Nat) : Option Or2 :=
  match compilePattern cs with
  | some (m, e) => some { mask := m, expected := e, position := position }
  | none => none

/-! ## Templates (R17, R57, R58) -/

/-- The nine addressing-mode tags (R58), each with the instruction that its fields make. -/
inductive Format where
  | regReg    (make : RegIdx → RegIdx → RegIdx → Instr)
  | regImm12s (make : RegIdx → RegIdx → BitVec 12 → Instr)
  | regImm12u (make : RegIdx → RegIdx → BitVec 12 → Instr)
  | regImm16s (make : RegIdx → RegIdx → BitVec 16 → Instr)
  | regImm20s (make : RegIdx → BitVec 20 → Instr)
  | imm26s    (make : BitVec 26 → Instr)
  | regImm5u  (make : RegIdx → RegIdx → BitVec 5 → Instr)
  | hint16    (make : BitVec 15 → Instr)
  | noOperand (make : Word → Instr)

/-- The fields each tag takes from the word (R57, R59), in the order `rd`, `rj`, `rk` or immediate. -/
def Format.build (f : Format) (w : Word) : Instr :=
  match f with
  | .regReg make    => make (rdField w) (rjField w) (rkField w)
  | .regImm12s make => make (rdField w) (rjField w) (imm12Field w)
  | .regImm12u make => make (rdField w) (rjField w) (imm12Field w)
  | .regImm16s make => make (rdField w) (rjField w) (imm16Field w)
  | .regImm20s make => make (rdField w) (imm20Field w)
  | .imm26s make    => make (imm26Field w)
  | .regImm5u make  => make (rdField w) (rjField w) (imm5Field w)
  | .hint16 make    => make (imm15Field w)
  | .noOperand make => make w

/-- One template: the compiled pattern and what it decodes to (R17, R52). -/
structure Template where
  mask     : Word
  expected : Word
  format   : Format

/-- The match predicate of R53. -/
def Template.hits (t : Template) (w : Word) : Bool := w &&& t.mask == t.expected

/-- T0 to T9 (R66). -/
def templatesArith : List Template :=
  [ ⟨0xffff8000, 0x00100000, .regReg .addW⟩,
    ⟨0xffff8000, 0x00110000, .regReg .subW⟩,
    ⟨0xffff8000, 0x00200000, .regReg .divW⟩,
    ⟨0xffff8000, 0x00208000, .regReg .modW⟩,
    ⟨0xffff8000, 0x00210000, .regReg .divWu⟩,
    ⟨0xffff8000, 0x00218000, .regReg .modWu⟩,
    ⟨0xffff8000, 0x00150000, .regReg .or⟩,
    ⟨0xffff8000, 0x00148000, .regReg .and⟩,
    ⟨0xffff8000, 0x00158000, .regReg .xor⟩,
    ⟨0xffff8000, 0x00140000, .regReg .nor⟩ ]

/-- T10 to T24 (R66). -/
def templatesLogicShift : List Template :=
  [ ⟨0xffc00000, 0x03800000, .regImm12u .ori⟩,
    ⟨0xffc00000, 0x03400000, .regImm12u .andi⟩,
    ⟨0xffc00000, 0x03c00000, .regImm12u .xori⟩,
    ⟨0xffc00000, 0x02800000, .regImm12s .addiW⟩,
    ⟨0xffff8000, 0x00120000, .regReg .slt⟩,
    ⟨0xffff8000, 0x00128000, .regReg .sltu⟩,
    ⟨0xffff8000, 0x00170000, .regReg .sllW⟩,
    ⟨0xffff8000, 0x00178000, .regReg .srlW⟩,
    ⟨0xffff8000, 0x00180000, .regReg .sraW⟩,
    ⟨0xffff8000, 0x00408000, .regImm5u .slliW⟩,
    ⟨0xffff8000, 0x00448000, .regImm5u .srliW⟩,
    ⟨0xffff8000, 0x00488000, .regImm5u .sraiW⟩,
    ⟨0xffff8000, 0x001c0000, .regReg .mulW⟩,
    ⟨0xffff8000, 0x001c8000, .regReg .mulhW⟩,
    ⟨0xffff8000, 0x001d0000, .regReg .mulhWu⟩ ]

/-- T25 to T34 (R66). -/
def templatesMemory : List Template :=
  [ ⟨0xffc00000, 0x28000000, .regImm12s .ldB⟩,
    ⟨0xffc00000, 0x28400000, .regImm12s .ldH⟩,
    ⟨0xffc00000, 0x28800000, .regImm12s .ldW⟩,
    ⟨0xffc00000, 0x2a000000, .regImm12s .ldBu⟩,
    ⟨0xffc00000, 0x2a400000, .regImm12s .ldHu⟩,
    ⟨0xffc00000, 0x29000000, .regImm12s .stB⟩,
    ⟨0xffc00000, 0x29400000, .regImm12s .stH⟩,
    ⟨0xffc00000, 0x29800000, .regImm12s .stW⟩,
    ⟨0xfe000000, 0x1c000000, .regImm20s .pcaddu12i⟩,
    ⟨0xfe000000, 0x14000000, .regImm20s .lu12iW⟩ ]

/-- T35 to T45 (R66). -/
def templatesControl : List Template :=
  [ ⟨0xfc000000, 0x54000000, .imm26s .bl⟩,
    ⟨0xfc000000, 0x50000000, .imm26s .b⟩,
    ⟨0xfc000000, 0x4c000000, .regImm16s .jirl⟩,
    ⟨0xfc000000, 0x58000000, .regImm16s fun rd rj i => .beq rj rd i⟩,
    ⟨0xfc000000, 0x5c000000, .regImm16s fun rd rj i => .bne rj rd i⟩,
    ⟨0xfc000000, 0x60000000, .regImm16s fun rd rj i => .blt rj rd i⟩,
    ⟨0xfc000000, 0x64000000, .regImm16s fun rd rj i => .bge rj rd i⟩,
    ⟨0xfc000000, 0x68000000, .regImm16s fun rd rj i => .bltu rj rd i⟩,
    ⟨0xfc000000, 0x6c000000, .regImm16s fun rd rj i => .bgeu rj rd i⟩,
    ⟨0xffff8000, 0x38720000, .noOperand fun w => .dbar (imm15Field w)⟩,
    ⟨0xffff8000, 0x38728000, .noOperand fun w => .ibar (imm15Field w)⟩ ]

/-- The optional templates, between T45 and `break` when `P_SLTI` is true (R72). -/
def templatesOptional : List Template :=
  [ ⟨0xffc00000, 0x02000000, .regImm12s .slti⟩,
    ⟨0xffc00000, 0x02400000, .regImm12s .sltui⟩ ]

/-- T46, the trap template, second to last (R55, R66). -/
def templateBreak : Template := ⟨0xffff8000, 0x002a0000, .hint16 .brk⟩

/-- T47, the catch-all (R55, R66). -/
def templateCatchAll : Template := ⟨0x00000000, 0x00000000, .noOperand .inv⟩

/-- The table without the second `or` template: T0 to T45, the optional rows under `P_SLTI`, `break`, catch-all. -/
def baseTable (p : Params) : List Template :=
  templatesArith ++ templatesLogicShift ++ templatesMemory ++ templatesControl
    ++ (if p.pSlti then templatesOptional else []) ++ [templateBreak, templateCatchAll]

/-- The second `or` template: tag reg-reg and the action of `or` (R69). -/
def or2Template (o : Or2) : Template := ⟨o.mask, o.expected, .regReg .or⟩

/-- The template table (R66) with `TEMPLATE_OR2`, if supplied, at its position (R69; log entry 9). -/
def templateTable (p : Params) : List Template :=
  match p.or2 with
  | none   => baseTable p
  | some o => (baseTable p).take o.position ++ or2Template o :: (baseTable p).drop o.position

/-! ## Priority encoder (R54, R55) -/

/-- The first matching template's instruction. The empty list is the catch-all as well, so that the decoder is
total for every list; a table of `templateTable` always ends its scan at `templateCatchAll`. -/
def firstMatch (ts : List Template) (w : Word) : Instr :=
  match ts with
  | []      => .inv w
  | t :: ts => if t.hits w then t.format.build w else firstMatch ts w

/-- The decoder: a total function of the instruction word alone (R53, R55). -/
def decodeWord (p : Params) (w : Word) : Instr := firstMatch (templateTable p) w

/-- The word whose bytes, lowest address first, are given: little-endian (20_memory.md R35, R33). -/
def wordOfBytes (b0 b1 b2 b3 : Byte) : Word := b3 ++ b2 ++ b1 ++ b0

/-- Why a list of bytes holds no instruction. -/
inductive DecodeError where
  /-- fewer than the 4 bytes a fetch always reads (R50); the number there were -/
  | truncated (have_ : Nat)
deriving DecidableEq, Repr

/-- The instruction at the head of a list of bytes, and the rest of the list. -/
def decode (p : Params) (bytes : List Byte) : Except DecodeError (Instr × List Byte) :=
  match bytes with
  | b0 :: b1 :: b2 :: b3 :: rest => .ok (decodeWord p (wordOfBytes b0 b1 b2 b3), rest)
  | bs => .error (.truncated bs.length)

/-! ## Encoder: the formats of R57 with the opcodes of R66's patterns -/

/-- reg-reg and reg+imm5u: `opcode[31:15] rk[14:10] rj[9:5] rd[4:0]`. -/
def encodeRegReg (opcode : BitVec 17) (rd rj rk : RegIdx) : Word := opcode ++ rk ++ rj ++ rd
/-- reg+imm12s and reg+imm12u: `opcode[31:22] i12[21:10] rj[9:5] rd[4:0]`. -/
def encodeImm12 (opcode : BitVec 10) (rd rj : RegIdx) (i : BitVec 12) : Word := opcode ++ i ++ rj ++ rd
/-- reg+imm16s: `opcode[31:26] i16[25:10] rj[9:5] rd[4:0]`. -/
def encodeImm16 (opcode : BitVec 6) (rd rj : RegIdx) (i : BitVec 16) : Word := opcode ++ i ++ rj ++ rd
/-- reg+imm20s: `opcode[31:25] i20[24:5] rd[4:0]`. -/
def encodeImm20 (opcode : BitVec 7) (rd : RegIdx) (i : BitVec 20) : Word := opcode ++ i ++ rd
/-- imm26s: `opcode[31:26] i26[15:0] i26[25:16]`. -/
def encodeImm26 (opcode : BitVec 6) (i : BitVec 26) : Word :=
  opcode ++ i.extractLsb' 0 16 ++ i.extractLsb' 16 10
/-- hint16 and the barriers: `opcode[31:15]` and the 15 free bits. -/
def encodeHint15 (opcode : BitVec 17) (h : BitVec 15) : Word := opcode ++ h

/-- The word of an instruction (R57, R66, R72). The catch-all's word is the one it was selected for. -/
def encode : Instr → Word
  | .addW rd rj rk    => encodeRegReg 0b00000000000100000#17 rd rj rk
  | .subW rd rj rk    => encodeRegReg 0b00000000000100010#17 rd rj rk
  | .divW rd rj rk    => encodeRegReg 0b00000000001000000#17 rd rj rk
  | .modW rd rj rk    => encodeRegReg 0b00000000001000001#17 rd rj rk
  | .divWu rd rj rk   => encodeRegReg 0b00000000001000010#17 rd rj rk
  | .modWu rd rj rk   => encodeRegReg 0b00000000001000011#17 rd rj rk
  | .or rd rj rk      => encodeRegReg 0b00000000000101010#17 rd rj rk
  | .and rd rj rk     => encodeRegReg 0b00000000000101001#17 rd rj rk
  | .xor rd rj rk     => encodeRegReg 0b00000000000101011#17 rd rj rk
  | .nor rd rj rk     => encodeRegReg 0b00000000000101000#17 rd rj rk
  | .ori rd rj i      => encodeImm12 0b0000001110#10 rd rj i
  | .andi rd rj i     => encodeImm12 0b0000001101#10 rd rj i
  | .xori rd rj i     => encodeImm12 0b0000001111#10 rd rj i
  | .addiW rd rj i    => encodeImm12 0b0000001010#10 rd rj i
  | .slt rd rj rk     => encodeRegReg 0b00000000000100100#17 rd rj rk
  | .sltu rd rj rk    => encodeRegReg 0b00000000000100101#17 rd rj rk
  | .sllW rd rj rk    => encodeRegReg 0b00000000000101110#17 rd rj rk
  | .srlW rd rj rk    => encodeRegReg 0b00000000000101111#17 rd rj rk
  | .sraW rd rj rk    => encodeRegReg 0b00000000000110000#17 rd rj rk
  | .slliW rd rj i    => encodeRegReg 0b00000000010000001#17 rd rj i
  | .srliW rd rj i    => encodeRegReg 0b00000000010001001#17 rd rj i
  | .sraiW rd rj i    => encodeRegReg 0b00000000010010001#17 rd rj i
  | .mulW rd rj rk    => encodeRegReg 0b00000000000111000#17 rd rj rk
  | .mulhW rd rj rk   => encodeRegReg 0b00000000000111001#17 rd rj rk
  | .mulhWu rd rj rk  => encodeRegReg 0b00000000000111010#17 rd rj rk
  | .ldB rd rj i      => encodeImm12 0b0010100000#10 rd rj i
  | .ldH rd rj i      => encodeImm12 0b0010100001#10 rd rj i
  | .ldW rd rj i      => encodeImm12 0b0010100010#10 rd rj i
  | .ldBu rd rj i     => encodeImm12 0b0010101000#10 rd rj i
  | .ldHu rd rj i     => encodeImm12 0b0010101001#10 rd rj i
  | .stB rd rj i      => encodeImm12 0b0010100100#10 rd rj i
  | .stH rd rj i      => encodeImm12 0b0010100101#10 rd rj i
  | .stW rd rj i      => encodeImm12 0b0010100110#10 rd rj i
  | .pcaddu12i rd i   => encodeImm20 0b0001110#7 rd i
  | .lu12iW rd i      => encodeImm20 0b0001010#7 rd i
  | .bl i             => encodeImm26 0b010101#6 i
  | .b i              => encodeImm26 0b010100#6 i
  | .jirl rd rj i     => encodeImm16 0b010011#6 rd rj i
  | .beq rj rd i      => encodeImm16 0b010110#6 rd rj i
  | .bne rj rd i      => encodeImm16 0b010111#6 rd rj i
  | .blt rj rd i      => encodeImm16 0b011000#6 rd rj i
  | .bge rj rd i      => encodeImm16 0b011001#6 rd rj i
  | .bltu rj rd i     => encodeImm16 0b011010#6 rd rj i
  | .bgeu rj rd i     => encodeImm16 0b011011#6 rd rj i
  | .dbar h           => encodeHint15 0b00111000011100100#17 h
  | .ibar h           => encodeHint15 0b00111000011100101#17 h
  | .slti rd rj i     => encodeImm12 0b0000001000#10 rd rj i
  | .sltui rd rj i    => encodeImm12 0b0000001001#10 rd rj i
  | .brk c            => encodeHint15 0b00000000001010100#17 c
  | .inv w            => w

/-- The four bytes of a word as memory holds them, lowest address first (20_memory.md R34, R35). -/
def bytesOfWord (w : Word) : List Byte :=
  [w.extractLsb' 0 8, w.extractLsb' 8 8, w.extractLsb' 16 8, w.extractLsb' 24 8]

/-- The parameters of the table of all 50 rows of spec/opcode_table.json (30_encoding.md R75). -/
def Params.allRows : Params := { Params.standard with pSlti := true }

/-- The word of which the table gives the low `nbits` bits; every bit above them is 0. -/
def tableWord (nbits w : Nat) : Word := BitVec.ofNat 32 (w % 2 ^ nbits)

/-- The instruction the decoder reads from the bytes of a row of spec/opcode_table.json, in the table of all its
rows (R75; log entry 10). -/
def decodeTableWord (nbits w : Nat) : Option Instr :=
  match decode Params.allRows (bytesOfWord (tableWord nbits w)) with
  | .ok (i, _) => some i
  | .error _   => none

end Sys2Proof
end

