-- ==== Sys2Proof/Machine/Fetch.lean ====
section
/-! DEFINITION. Fetch and decode (40_step.md R81, R83), and the host's loading of one word. -/

namespace Sys2Proof.Machine

/-- The instruction at the pc: one request of 4 bytes (10_state.md R20), decoded by the table the parameters give; or
the `MemFault` of a fetch that is not admitted (R81). -/
def State.fetched (s : State) : Except FaultReason Instr :=
  if s.admits s.pc .word .fetch then .ok (decodeWord s.params (s.readRaw s.pc (widthBytes .word)))
  else .error (.memory s.pc .word .fetch)

/-- The word is an instruction of the optional rows (30_encoding.md R72). -/
def optionalWord (w : Word) : Bool := templatesOptional.any (fun t => t.hits w)

/-- The host loads a word at the pc (70_reset_and_hazards.md R210), and supplies the table with the optional rows if
the word is one of theirs (R72). Log entries 10 and 11. -/
def State.loadAtPc (s : State) (w : Word) : State :=
  { s.store s.pc (widthBytes .word) w with params := { s.params with pSlti := s.params.pSlti || optionalWord w } }

end Sys2Proof.Machine
end

