-- ==== Sys2Proof/Machine/Step.lean ====
section
/-! DEFINITION. One step (40_step.md R80), and placing an instruction where the step fetches it. -/

namespace Sys2Proof.Machine

/-- One step: fetch, decode, execute; no step is taken unless `status` is `running` (10_state.md R19). -/
def step (s : State) : Host.Outcome State Fault Refusal :=
  match s.status with
  | .running =>
    match s.fetched with
    | .ok i    => exec i s
    | .error r => .next (s.raiseEvent (.fault r))
  | status => .fault (.notRunning status)

/-- The state with an instruction's word stored where the next step fetches it (log entry 11). -/
def State.withFetchWord (s : State) (nbits w : Nat) : State := s.loadAtPc (tableWord nbits w)

end Sys2Proof.Machine
end

