-- ==== Sys2Proof/Safety.lean ====
section
/-! DEFINITION. The terms in which claims speak of a run: its ends (40_step.md R92), and the invariant of the machine. -/

namespace Sys2Proof.Machine

/-- The successful end of a run: the trap sink was called (R92). -/
def Successful (s : State) : Prop := ∃ pc code, s.status = .exited pc code

/-- The run is over (10_state.md R19). -/
def Ended (s : State) : Prop := s.status ≠ .running

/-- Register 0 holds 0 (40_step.md R88) and memory has its canonical form. -/
structure Inv (s : State) : Prop where
  zero   : s.reg 0 = 0
  memory : Memory.wf s.mem = true

/-- The nine control-transfer instructions, the only ones that assign `dnpc` (40_step.md R89). -/
def isControlTransfer (i : Instr) : Bool :=
  match i with
  | .beq _ _ _ | .bne _ _ _ | .blt _ _ _ | .bge _ _ _ | .bltu _ _ _ | .bgeu _ _ _ => true
  | .b _ | .bl _ | .jirl _ _ _ => true
  | _ => false

/-- The stores with the base register and displacement of their address and their width (44_loadstore.md R152 to
R154). -/
def storeForm (i : Instr) : Option (RegIdx × BitVec 12 × Width) :=
  match i with
  | .stB _ rj si12 => some (rj, si12, .byte)
  | .stH _ rj si12 => some (rj, si12, .half)
  | .stW _ rj si12 => some (rj, si12, .word)
  | _ => none

/-- The loads with the base register and displacement of their address and their width (R147 to R151). -/
def loadForm (i : Instr) : Option (RegIdx × BitVec 12 × Width) :=
  match i with
  | .ldB _ rj si12  => some (rj, si12, .byte)
  | .ldH _ rj si12  => some (rj, si12, .half)
  | .ldW _ rj si12  => some (rj, si12, .word)
  | .ldBu _ rj si12 => some (rj, si12, .byte)
  | .ldHu _ rj si12 => some (rj, si12, .half)
  | _ => none

/-- The divides with their divisor and dividend registers (43_muldiv.md R134 to R137). -/
def divForm (i : Instr) : Option (DivOp × RegIdx × RegIdx) :=
  match i with
  | .divW _ rj rk  => some (.divW, rj, rk)
  | .modW _ rj rk  => some (.modW, rj, rk)
  | .divWu _ rj rk => some (.divWu, rj, rk)
  | .modWu _ rj rk => some (.modWu, rj, rk)
  | _ => none

end Sys2Proof.Machine
end

