-- ==== Sys2Proof/WellFormed.lean ====
section
/-! DEFINITION. Which terms of `Instr` stand for a word under given parameters. Every operand field has exactly the
width of its encoding, so what remains to check is the selection of the template (30_encoding.md R54, R69, R72). -/

namespace Sys2Proof

/-- The templates other than the catch-all. -/
def specificTemplates (p : Params) : List Template :=
  templatesArith ++ templatesLogicShift ++ templatesMemory ++ templatesControl
    ++ (if p.pSlti then templatesOptional else []) ++ [templateBreak]

/-- The word of the term is taken by the second `or` template (R69). -/
def takenByOr2 (p : Params) (w : Word) : Bool :=
  match p.or2 with
  | none   => false
  | some o => (or2Template o).hits w

/-- The checks: `slti` and `sltui` are instructions only under `P_SLTI` (R72); the catch-all is selected for a word
that no specific template matches (R70, R179); only `or` may stand for a word the second `or` template takes. -/
def Instr.wellFormed (p : Params) (i : Instr) : Bool :=
  match i with
  | .or _ _ _    => true
  | .slti _ _ _  => p.pSlti && !takenByOr2 p (encode i)
  | .sltui _ _ _ => p.pSlti && !takenByOr2 p (encode i)
  | .inv w       => (specificTemplates p).all (fun t => !t.hits w) && !takenByOr2 p w
  | i            => !takenByOr2 p (encode i)

end Sys2Proof
end

