-- ==== Sys2Proof/Certificates/Slice0/Obligations.lean ====
section
/-! DEFINITION. The statements for the provers. OBLIGATIONS.json lists each with its rules. They hold for every setting
of the parameters that a hypothesis does not name. Where a rule carries a decision of 92_eei_decisions.md, the docstring
names it (D<n>); the bit literals of the encodings are D4 (log entry 12): nothing here is a claim about the real
hardware's table (30_encoding.md R69, D6, D7). -/

namespace Sys2Proof.Machine

/-! ## Terms of the statements -/

/-- Every word with these fixed bits decodes to `f` of the word, in every table without a second `or` template. -/
def Selects (mask expected : Word) (f : Word → Instr) : Prop :=
  ∀ (p : Params) (w : Word), p.or2 = none → w &&& mask = expected → decodeWord p w = f w

/-- `t` is `s` after a completed instruction that writes `v` to `rd` alone and continues at `pc'`: register 0 holds 0
whatever `rd` is, every other register, every byte of memory and all other state pass. -/
structure WritesOnly (s t : State) (rd : RegIdx) (v pc' : Word) : Prop where
  zero   : t.reg 0 = 0
  dest   : rd ≠ 0 → t.reg rd = v
  others : ∀ r, r ≠ 0 → r ≠ rd → t.reg r = s.reg r
  pc     : t.pc = pc'
  memory : ∀ a, memRead t.mem a = memRead s.mem a
  status : t.status = s.status
  params : t.params = s.params
  draws  : t.draws = s.draws

/-- The instruction completes; it writes `v` to `rd` alone and continues at `pc'`. -/
def Yields (i : Instr) (s : State) (rd : RegIdx) (v pc' : Word) : Prop :=
  ∃ t, exec i s = .next t ∧ WritesOnly s t rd v pc'

/-- `t` is `s` after a completed instruction that writes no register and no memory and continues at `pc'`. -/
structure OnlyMovesPc (s t : State) (pc' : Word) : Prop where
  zero   : t.reg 0 = 0
  others : ∀ r, r ≠ 0 → t.reg r = s.reg r
  pc     : t.pc = pc'
  memory : ∀ a, memRead t.mem a = memRead s.mem a
  status : t.status = s.status
  params : t.params = s.params
  draws  : t.draws = s.draws

/-- The instruction completes; it writes nothing and continues at `pc'`. -/
def Continues (i : Instr) (s : State) (pc' : Word) : Prop := ∃ t, exec i s = .next t ∧ OnlyMovesPc s t pc'

/-- `t` is `s` after a signal: register 0 holds 0, `status` is `st`, nothing else of registers and memory changed. -/
structure Signals (s t : State) (st : Status) : Prop where
  zero   : t.reg 0 = 0
  others : ∀ r, r ≠ 0 → t.reg r = s.reg r
  memory : ∀ a, memRead t.mem a = memRead s.mem a
  status : t.status = st
  params : t.params = s.params
  draws  : t.draws = s.draws

/-- `t` is `s` after a completed store of the low `n` bytes of `v` at `ea`. -/
structure StoresOnly (s t : State) (ea : Word) (n : Nat) (v : Word) : Prop where
  zero   : t.reg 0 = 0
  others : ∀ r, r ≠ 0 → t.reg r = s.reg r
  pc     : t.pc = s.pc + 4
  bytes  : ∀ i, i < n → memRead t.mem (ea + BitVec.ofNat 32 i).toNat = some (v.extractLsb' (8 * i) 8)
  frame  : ∀ a, (∀ i, i < n → a ≠ (ea + BitVec.ofNat 32 i).toNat) → memRead t.mem a = memRead s.mem a
  status : t.status = s.status
  params : t.params = s.params
  draws  : t.draws = s.draws

/-- `s` with its run ended by a fault: "nothing changed" but `status` (40_step.md R91). -/
def faultedState (s : State) (r : FaultReason) : State := { s with status := .faulted r }

/-- The byte `k` places above `ea`. -/
def byteOf (s : State) (ea : Word) (k : Nat) : Byte := s.byteAt (ea + BitVec.ofNat 32 k).toNat

/-- The (mask, match) of T0 to T46 (30_encoding.md R66). -/
def specificRows : List (Word × Word) :=
  [(0xffff8000, 0x00100000), (0xffff8000, 0x00110000), (0xffff8000, 0x00200000), (0xffff8000, 0x00208000),
   (0xffff8000, 0x00210000), (0xffff8000, 0x00218000), (0xffff8000, 0x00150000), (0xffff8000, 0x00148000),
   (0xffff8000, 0x00158000), (0xffff8000, 0x00140000), (0xffc00000, 0x03800000), (0xffc00000, 0x03400000)]
  ++ [(0xffc00000, 0x03c00000), (0xffc00000, 0x02800000), (0xffff8000, 0x00120000), (0xffff8000, 0x00128000),
   (0xffff8000, 0x00170000), (0xffff8000, 0x00178000), (0xffff8000, 0x00180000), (0xffff8000, 0x00408000),
   (0xffff8000, 0x00448000), (0xffff8000, 0x00488000), (0xffff8000, 0x001c0000), (0xffff8000, 0x001c8000)]
  ++ [(0xffff8000, 0x001d0000), (0xffc00000, 0x28000000), (0xffc00000, 0x28400000), (0xffc00000, 0x28800000),
   (0xffc00000, 0x2a000000), (0xffc00000, 0x2a400000), (0xffc00000, 0x29000000), (0xffc00000, 0x29400000),
   (0xffc00000, 0x29800000), (0xfe000000, 0x1c000000), (0xfe000000, 0x14000000), (0xfc000000, 0x54000000)]
  ++ [(0xfc000000, 0x50000000), (0xfc000000, 0x4c000000), (0xfc000000, 0x58000000), (0xfc000000, 0x5c000000),
   (0xfc000000, 0x60000000), (0xfc000000, 0x64000000), (0xfc000000, 0x68000000), (0xfc000000, 0x6c000000),
   (0xffff8000, 0x38720000), (0xffff8000, 0x38728000), (0xffff8000, 0x002a0000)]

/-- The (mask, match) of the optional rows (R72). -/
def optionalRows : List (Word × Word) := [(0xffc00000, 0x02000000), (0xffc00000, 0x02400000)]

/-- The registers an instruction reads (10_state.md R13). -/
def readsOf (p : Params) (i : Instr) : List RegIdx :=
  match i with
  | .addW _ rj rk | .subW _ rj rk | .divW _ rj rk | .modW _ rj rk | .divWu _ rj rk | .modWu _ rj rk => [rj, rk]
  | .or _ rj rk | .and _ rj rk | .xor _ rj rk | .nor _ rj rk | .slt _ rj rk | .sltu _ rj rk => [rj, rk]
  | .sllW _ rj rk | .srlW _ rj rk | .sraW _ rj rk | .mulW _ rj rk | .mulhW _ rj rk | .mulhWu _ rj rk => [rj, rk]
  | .ori _ rj _ | .andi _ rj _ | .xori _ rj _ | .addiW _ rj _ | .slti _ rj _ | .sltui _ rj _ => [rj]
  | .slliW _ rj _ | .srliW _ rj _ | .sraiW _ rj _ => [rj]
  | .ldB _ rj _ | .ldH _ rj _ | .ldW _ rj _ | .ldBu _ rj _ | .ldHu _ rj _ | .jirl _ rj _ => [rj]
  | .stB rd rj _ | .stH rd rj _ | .stW rd rj _ => [rd, rj]
  | .beq rj rd _ | .bne rj rd _ | .blt rj rd _ | .bge rj rd _ | .bltu rj rd _ | .bgeu rj rd _ => [rj, rd]
  | .brk _ => [p.exitReg]
  | .pcaddu12i _ _ | .lu12iW _ _ | .bl _ | .b _ | .dbar _ | .ibar _ | .inv _ => []

end Sys2Proof.Machine

open Sys2Proof Sys2Proof.Machine

/-! ## Decoder and encoder -/

/-- Decoding the encoding of a well-formed instruction gives it back, under every parameter setting. -/
def Obligations.DecodeOfEncodeIsIdentity : Prop :=
  ∀ (p : Params) (i : Instr), i.wellFormed p = true → decodeWord p (encode i) = i

/-- Every word is the encoding of what it decodes to: no bit of a word is dropped (tables without a second `or`). -/
def Obligations.EncodeOfDecodeIsIdentity : Prop :=
  ∀ (p : Params) (w : Word), p.or2 = none → encode (decodeWord p w) = w ∧ (decodeWord p w).wellFormed p = true

/-- Words written out in the spec's examples, of seven of the nine tags of R58 (none of reg+imm12u and reg+imm20s),
decode to the instructions they stand for in the table of all rows. That the word of `slti` is an instruction is the
model's choice of that table for `decodeTableWord` (log entry 10, DESIGN CHOICE): by default `P_SLTI` is false and the
word is invalid (D7). -/
def Obligations.ExampleWordsDecode : Prop :=
  decodeTableWord 32 0x00100c41 = some (.addW 1 2 3)
    ∧ decodeTableWord 32 0x02bffc41 = some (.addiW 1 2 0xfff)
    ∧ decodeTableWord 32 0x0040c041 = some (.slliW 1 2 16)
    ∧ decodeTableWord 32 0x001d0c41 = some (.mulhWu 1 2 3)
    ∧ decodeTableWord 32 0x28bff041 = some (.ldW 1 2 0xffc)
    ∧ decodeTableWord 32 0x58001043 = some (.beq 2 3 4)
    ∧ decodeTableWord 32 0x50000004 = some (.b 0x40000)
    ∧ decodeTableWord 32 0x002a7fff = some (.brk 0x7fff)
    ∧ decodeTableWord 32 0x023ffc41 = some (.slti 1 2 0xfff)
    ∧ decodeTableWord 32 0xffffffff = some (.inv 0xffffffff)

/-- R54: the selected template is the one of least index that matches. -/
def Obligations.FirstMatchingTemplateWins : Prop :=
  (∀ (p : Params) (w : Word), decodeWord p w = firstMatch (templateTable p) w)
    ∧ ∀ (ts : List Template) (k : Nat) (t : Template) (w : Word),
        ts[k]? = some t → w &&& t.mask = t.expected →
        (∀ (j : Nat) (u : Template), j < k → ts[j]? = some u → w &&& u.mask ≠ u.expected) →
        firstMatch ts w = t.format.build w

/-- R52: compiling a pattern of 32 symbols. -/
def Obligations.PatternCompilation : Prop :=
  ∀ cs : List Char, cs.length = 32 → (∀ c ∈ cs, c = '0' ∨ c = '1' ∨ c = '?') →
    ∃ m e, compilePattern cs = some (m, e)
      ∧ (∀ (p : Nat) (c : Char), cs[p]? = some c →
          m.getLsbD (31 - p) = decide (c = '0' ∨ c = '1') ∧ e.getLsbD (31 - p) = decide (c = '1'))
      ∧ e &&& ~~~m = 0

/-- R51 with its decision D28: whitespace is skipped, any other character or number of symbols is refused. -/
def Obligations.MalformedPatternsAreRefused : Prop :=
  (∀ cs : List Char, compilePattern cs = compilePattern (cs.filter fun c => !c.isWhitespace))
    ∧ (∀ cs : List Char, (∃ c ∈ cs, c ≠ '0' ∧ c ≠ '1' ∧ c ≠ '?' ∧ c.isWhitespace = false) → compilePattern cs = none)
    ∧ (∀ cs : List Char, (cs.filter fun c => !c.isWhitespace).length ≠ 32 → compilePattern cs = none)

/-- The spec's inference R68: no word matches two of T0 to T46 and the optional rows; the catch-all alone overlaps the
others, and overlaps each of them; so the order of the templates before it has no effect, and it is chosen exactly
when no other matches. -/
def Obligations.TemplateOrderHasNoEffect : Prop :=
  List.Pairwise (fun a b => ∀ w : Word, ¬(w &&& a.1 = a.2 ∧ w &&& b.1 = b.2)) (specificRows ++ optionalRows)
    ∧ (∀ r ∈ specificRows ++ optionalRows, ∃ w : Word, w &&& r.1 = r.2 ∧ templateCatchAll.hits w = true)
    ∧ ∀ (p : Params) (ts : List Template) (w : Word), p.or2 = none → ts.Perm (specificTemplates p) →
        firstMatch (ts ++ [templateCatchAll]) w = decodeWord p w
          ∧ (decodeWord p w = .inv w ↔ ∀ t ∈ ts, w &&& t.mask ≠ t.expected)

/-- R70: a word that matches no specific template selects the catch-all and raises the invalid signal; a word that
matches one does not select it. -/
def Obligations.IllegalEncodingsAreInvalid : Prop :=
  (∀ (p : Params) (w : Word), p.or2 = none →
      ((∃ v, decodeWord p w = .inv v) ↔
        (∀ r ∈ specificRows, w &&& r.1 ≠ r.2) ∧ (p.pSlti = true → ∀ r ∈ optionalRows, w &&& r.1 ≠ r.2)))
    ∧ (∀ (p : Params) (w v : Word) (s : State), decodeWord p w = .inv v →
        ∃ t, exec (decodeWord p w) s = .next t ∧ Signals s t (.aborted s.pc))
    ∧ (∀ p : Params, p.or2 = none → decodeWord p 0xFFFFFFFF = .inv 0xFFFFFFFF ∧ decodeWord p 0 = .inv 0)

/-- R69 with its decision D6 (log entry 9): with a second `or` template at a position of the table, a word it matches
and no earlier template matches decodes to `or` of its register fields; every other word decodes as without it. -/
def Obligations.SecondOrTemplate : Prop :=
  ∀ (p : Params) (o : Or2) (w : Word), p.or2 = some o →
    ((w &&& o.mask = o.expected ∧ ∀ t ∈ (templateTable { p with or2 := none }).take o.position, t.hits w = false) →
        decodeWord p w = .or (rdField w) (rjField w) (rkField w))
    ∧ (w &&& o.mask ≠ o.expected → decodeWord p w = decodeWord { p with or2 := none } w)
    ∧ ((∃ t ∈ (templateTable { p with or2 := none }).take o.position, t.hits w = true) →
        decodeWord p w = decodeWord { p with or2 := none } w)

/-- R71 for `break`, `dbar` and `ibar` (D31): every value of inst[14:0] selects the template and has the same effect. -/
def Obligations.IgnoredFieldsHaveNoEffect : Prop :=
  (∀ (p : Params) (k : BitVec 15), p.or2 = none →
      decodeWord p (0x002a0000 ||| k.setWidth 32) = .brk k
        ∧ decodeWord p (0x38720000 ||| k.setWidth 32) = .dbar k
        ∧ decodeWord p (0x38728000 ||| k.setWidth 32) = .ibar k)
    ∧ ∀ (j k : BitVec 15) (s : State),
        exec (.brk j) s = exec (.brk k) s ∧ exec (.dbar j) s = exec (.dbar k) s ∧ exec (.ibar j) s = exec (.ibar k) s

/-! ## Add, subtract, logic, compare, upper immediates -/

/-- R100, R101. -/
def Obligations.AddAndSubtract : Prop :=
  Selects 0xffff8000 0x00100000 (fun w => .addW (rdField w) (rjField w) (rkField w))
    ∧ Selects 0xffff8000 0x00110000 (fun w => .subW (rdField w) (rjField w) (rkField w))
    ∧ ∀ (rd rj rk : RegIdx) (s : State),
        Yields (.addW rd rj rk) s rd (BitVec.ofNat 32 ((s.reg rj).toNat + (s.reg rk).toNat)) (s.pc + 4)
          ∧ Yields (.subW rd rj rk) s rd (BitVec.ofInt 32 ((s.reg rj).toInt - (s.reg rk).toInt)) (s.pc + 4)

/-- R102 to R105, bit by bit. -/
def Obligations.BitwiseLogic : Prop :=
  Selects 0xffff8000 0x00140000 (fun w => .nor (rdField w) (rjField w) (rkField w))
    ∧ Selects 0xffff8000 0x00148000 (fun w => .and (rdField w) (rjField w) (rkField w))
    ∧ Selects 0xffff8000 0x00150000 (fun w => .or (rdField w) (rjField w) (rkField w))
    ∧ Selects 0xffff8000 0x00158000 (fun w => .xor (rdField w) (rjField w) (rkField w))
    ∧ ∀ (rd rj rk : RegIdx) (s : State), ∃ vn va vo vx : Word,
        (∀ b, b < 32 →
          vn.getLsbD b = (!((s.reg rj).getLsbD b || (s.reg rk).getLsbD b))
            ∧ va.getLsbD b = ((s.reg rj).getLsbD b && (s.reg rk).getLsbD b)
            ∧ vo.getLsbD b = ((s.reg rj).getLsbD b || (s.reg rk).getLsbD b)
            ∧ vx.getLsbD b = ((s.reg rj).getLsbD b ^^ (s.reg rk).getLsbD b))
        ∧ Yields (.nor rd rj rk) s rd vn (s.pc + 4) ∧ Yields (.and rd rj rk) s rd va (s.pc + 4)
        ∧ Yields (.or rd rj rk) s rd vo (s.pc + 4) ∧ Yields (.xor rd rj rk) s rd vx (s.pc + 4)

/-- R110, R111 (operand order: D17, log entry 17). -/
def Obligations.SetOnLessThan : Prop :=
  Selects 0xffff8000 0x00120000 (fun w => .slt (rdField w) (rjField w) (rkField w))
    ∧ Selects 0xffff8000 0x00128000 (fun w => .sltu (rdField w) (rjField w) (rkField w))
    ∧ ∀ (rd rj rk : RegIdx) (s : State),
        Yields (.slt rd rj rk) s rd (if (s.reg rj).toInt < (s.reg rk).toInt then 1 else 0) (s.pc + 4)
          ∧ Yields (.sltu rd rj rk) s rd (if (s.reg rj).toNat < (s.reg rk).toNat then 1 else 0) (s.pc + 4)

/-- R106. -/
def Obligations.AddImmediate : Prop :=
  Selects 0xffc00000 0x02800000 (fun w => .addiW (rdField w) (rjField w) (w.extractLsb' 10 12))
    ∧ ∀ (rd rj : RegIdx) (si12 : BitVec 12) (s : State),
        Yields (.addiW rd rj si12) s rd (BitVec.ofInt 32 ((s.reg rj).toInt + si12.toInt)) (s.pc + 4)

/-- R107 to R109, under both settings of `P_LOGIC_IMM_ZEXT` (D9, log entry 14). -/
def Obligations.LogicImmediate : Prop :=
  Selects 0xffc00000 0x03400000 (fun w => .andi (rdField w) (rjField w) (w.extractLsb' 10 12))
    ∧ Selects 0xffc00000 0x03800000 (fun w => .ori (rdField w) (rjField w) (w.extractLsb' 10 12))
    ∧ Selects 0xffc00000 0x03c00000 (fun w => .xori (rdField w) (rjField w) (w.extractLsb' 10 12))
    ∧ ∀ (rd rj : RegIdx) (ui12 : BitVec 12) (s : State) (imm : Word),
        imm = (if s.params.logicImmZext then ui12.setWidth 32 else ui12.signExtend 32) →
        Yields (.andi rd rj ui12) s rd (s.reg rj &&& imm) (s.pc + 4)
          ∧ Yields (.ori rd rj ui12) s rd (s.reg rj ||| imm) (s.pc + 4)
          ∧ Yields (.xori rd rj ui12) s rd (s.reg rj ^^^ imm) (s.pc + 4)

/-- R112, R113: the field followed by twelve zeros (D19, log entry 17). -/
def Obligations.UpperImmediate : Prop :=
  Selects 0xfe000000 0x14000000 (fun w => .lu12iW (rdField w) (w.extractLsb' 5 20))
    ∧ Selects 0xfe000000 0x1c000000 (fun w => .pcaddu12i (rdField w) (w.extractLsb' 5 20))
    ∧ ∀ (rd : RegIdx) (si20 : BitVec 20) (s : State),
        Yields (.lu12iW rd si20) s rd (si20 ++ 0#12) (s.pc + 4)
          ∧ Yields (.pcaddu12i rd si20) s rd (s.pc + (si20 ++ 0#12)) (s.pc + 4)

/-- R114, R115 (D7, log entry 10): present only under `P_SLTI`, otherwise their words are invalid. -/
def Obligations.OptionalCompareImmediate : Prop :=
  (∀ (p : Params) (w : Word), p.or2 = none →
      (w &&& 0xffc00000 = 0x02000000 → decodeWord p w =
        if p.pSlti then .slti (rdField w) (rjField w) (w.extractLsb' 10 12) else .inv w)
      ∧ (w &&& 0xffc00000 = 0x02400000 → decodeWord p w =
        if p.pSlti then .sltui (rdField w) (rjField w) (w.extractLsb' 10 12) else .inv w))
    ∧ ∀ (rd rj : RegIdx) (si12 : BitVec 12) (s : State),
        Yields (.slti rd rj si12) s rd (if (s.reg rj).toInt < si12.toInt then 1 else 0) (s.pc + 4)
          ∧ Yields (.sltui rd rj si12) s rd
              (if (s.reg rj).toNat < (si12.signExtend 32).toNat then 1 else 0) (s.pc + 4)

/-- An instruction of 41_alu.md, 42_shift.md or a multiply with `rd = 0` has no effect but the pc's advance. -/
def Obligations.DestinationZeroOnlyMovesPc : Prop :=
  ∀ (rj rk : RegIdx) (i12 : BitVec 12) (i20 : BitVec 20) (s : State), s.reg 0 = 0 →
    ∀ i ∈ [.addW 0 rj rk, .subW 0 rj rk, .nor 0 rj rk, .and 0 rj rk, .or 0 rj rk, .xor 0 rj rk, .slt 0 rj rk,
        .sltu 0 rj rk, .addiW 0 rj i12, .andi 0 rj i12, .ori 0 rj i12, .xori 0 rj i12, .slti 0 rj i12,
        .sltui 0 rj i12, .lu12iW 0 i20, .pcaddu12i 0 i20, .sllW 0 rj rk, .srlW 0 rj rk, .sraW 0 rj rk,
        .mulW 0 rj rk, .mulhW 0 rj rk, Instr.mulhWu 0 rj rk],
      exec i s = .next { s with pc := s.pc + 4 }

/-! ## Shifts -/

/-- R121 to R123: the amount is the low five bits of `x[rk]`. -/
def Obligations.RegisterShifts : Prop :=
  Selects 0xffff8000 0x00170000 (fun w => .sllW (rdField w) (rjField w) (rkField w))
    ∧ Selects 0xffff8000 0x00178000 (fun w => .srlW (rdField w) (rjField w) (rkField w))
    ∧ Selects 0xffff8000 0x00180000 (fun w => .sraW (rdField w) (rjField w) (rkField w))
    ∧ ∀ (rd rj rk : RegIdx) (s : State) (n : Nat), n = (s.reg rk).toNat % 32 →
        Yields (.sllW rd rj rk) s rd (BitVec.ofNat 32 ((s.reg rj).toNat * 2 ^ n)) (s.pc + 4)
          ∧ Yields (.srlW rd rj rk) s rd (BitVec.ofNat 32 ((s.reg rj).toNat / 2 ^ n)) (s.pc + 4)
          ∧ Yields (.sraW rd rj rk) s rd (BitVec.ofInt 32 ((s.reg rj).toInt / 2 ^ n)) (s.pc + 4)

/-- R124 to R126, under `P_SHIFT_IMM_HI = mask` for every amount, and under `refuse` for amounts 0 to 15 (D10, log
entry 15). -/
def Obligations.ImmediateShifts : Prop :=
  Selects 0xffff8000 0x00408000 (fun w => .slliW (rdField w) (rjField w) (w.extractLsb' 10 5))
    ∧ Selects 0xffff8000 0x00448000 (fun w => .srliW (rdField w) (rjField w) (w.extractLsb' 10 5))
    ∧ Selects 0xffff8000 0x00488000 (fun w => .sraiW (rdField w) (rjField w) (w.extractLsb' 10 5))
    ∧ ∀ (rd rj : RegIdx) (ui5 : BitVec 5) (s : State), s.params.shiftImmHi = .mask ∨ ui5.toNat < 16 →
        Yields (.slliW rd rj ui5) s rd (BitVec.ofNat 32 ((s.reg rj).toNat * 2 ^ ui5.toNat)) (s.pc + 4)
          ∧ Yields (.srliW rd rj ui5) s rd (BitVec.ofNat 32 ((s.reg rj).toNat / 2 ^ ui5.toNat)) (s.pc + 4)
          ∧ Yields (.sraiW rd rj ui5) s rd (BitVec.ofInt 32 ((s.reg rj).toInt / 2 ^ ui5.toNat)) (s.pc + 4)

/-- R120, R127 under `P_SHIFT_IMM_HI = refuse` (D10, log entry 15): the immediate shifts by 16 to 31, and nothing
else, are refused. That no instruction answers a fault is the model's choice: the events of R91 are next states (log
entry 5, DESIGN CHOICE) and `exec` does not look at the status (log entry 25, DESIGN CHOICE). -/
def Obligations.RefusalIsOfHighImmediateShiftsOnly : Prop :=
  (∀ (rd rj : RegIdx) (ui5 : BitVec 5) (s : State), s.params.shiftImmHi = .refuse → 16 ≤ ui5.toNat →
      exec (.slliW rd rj ui5) s = .refused (.shiftImmHi ui5)
        ∧ exec (.srliW rd rj ui5) s = .refused (.shiftImmHi ui5)
        ∧ exec (.sraiW rd rj ui5) s = .refused (.shiftImmHi ui5))
    ∧ ∀ (i : Instr) (s : State),
        (∀ f, exec i s ≠ .fault f)
          ∧ ∀ r, exec i s = .refused r → s.params.shiftImmHi = .refuse ∧ ∃ rd rj ui5, 16 ≤ BitVec.toNat ui5
              ∧ (i = .slliW rd rj ui5 ∨ i = .srliW rd rj ui5 ∨ i = .sraiW rd rj ui5)

/-! ## Multiply, divide -/

/-- R131 to R133: the halves of the 64-bit product. -/
def Obligations.Multiply : Prop :=
  Selects 0xffff8000 0x001c0000 (fun w => .mulW (rdField w) (rjField w) (rkField w))
    ∧ Selects 0xffff8000 0x001c8000 (fun w => .mulhW (rdField w) (rjField w) (rkField w))
    ∧ Selects 0xffff8000 0x001d0000 (fun w => .mulhWu (rdField w) (rjField w) (rkField w))
    ∧ ∀ (rd rj rk : RegIdx) (s : State) (ps pu : BitVec 64),
        ps = (s.reg rj).signExtend 64 * (s.reg rk).signExtend 64 →
        pu = (s.reg rj).setWidth 64 * (s.reg rk).setWidth 64 →
        ps.toInt = (s.reg rj).toInt * (s.reg rk).toInt
          ∧ pu.toNat = (s.reg rj).toNat * (s.reg rk).toNat
          ∧ ps.extractLsb' 0 32 = pu.extractLsb' 0 32
          ∧ Yields (.mulW rd rj rk) s rd (pu.extractLsb' 0 32) (s.pc + 4)
          ∧ Yields (.mulhW rd rj rk) s rd (ps.extractLsb' 32 32) (s.pc + 4)
          ∧ Yields (.mulhWu rd rj rk) s rd (pu.extractLsb' 32 32) (s.pc + 4)

/-- R134, R135 where R138 does not apply (rounding D13, operand order D17: log entry 17). -/
def Obligations.SignedDivide : Prop :=
  Selects 0xffff8000 0x00200000 (fun w => .divW (rdField w) (rjField w) (rkField w))
    ∧ Selects 0xffff8000 0x00208000 (fun w => .modW (rdField w) (rjField w) (rkField w))
    ∧ ∀ (rd rj rk : RegIdx) (s : State), s.reg rk ≠ 0 →
        ¬(s.reg rj = 0x80000000 ∧ s.reg rk = 0xFFFFFFFF) →
        ∃ q r : Word,
          q.toInt = (s.reg rj).toInt.tdiv (s.reg rk).toInt
            ∧ r.toInt = (s.reg rj).toInt - q.toInt * (s.reg rk).toInt
            ∧ r.toInt.natAbs < (s.reg rk).toInt.natAbs
            ∧ (r.toInt = 0 ∨ (r.toInt < 0 ↔ (s.reg rj).toInt < 0))
            ∧ Yields (.divW rd rj rk) s rd q (s.pc + 4)
            ∧ Yields (.modW rd rj rk) s rd r (s.pc + 4)

/-- R136, R137 where R138 does not apply. -/
def Obligations.UnsignedDivide : Prop :=
  Selects 0xffff8000 0x00210000 (fun w => .divWu (rdField w) (rjField w) (rkField w))
    ∧ Selects 0xffff8000 0x00218000 (fun w => .modWu (rdField w) (rjField w) (rkField w))
    ∧ ∀ (rd rj rk : RegIdx) (s : State), s.reg rk ≠ 0 →
        ∃ q r : Word,
          q.toNat = (s.reg rj).toNat / (s.reg rk).toNat
            ∧ r.toNat = (s.reg rj).toNat % (s.reg rk).toNat
            ∧ r.toNat < (s.reg rk).toNat
            ∧ Yields (.divWu rd rj rk) s rd q (s.pc + 4)
            ∧ Yields (.modWu rd rj rk) s rd r (s.pc + 4)

/-- R138 with its decisions D11, D12 (log entry 7): (a) under each setting of `DIV0_POLICY`, for the four divides and
every destination, 0 among them; and (b) under each setting of `DIVOVF_POLICY`. -/
def Obligations.DivisionWithoutValue : Prop :=
  (∀ (rd rj rk : RegIdx) (s : State), s.reg rk = 0 →
    ∀ c ∈ [(DivOp.divW, Instr.divW rd rj rk), (.modW, .modW rd rj rk), (.divWu, .divWu rd rj rk),
        (.modWu, .modWu rd rj rk)],
      (s.params.div0 = .fault → exec c.2 s = .next (faultedState s (.divide s.pc)))
        ∧ (s.params.div0 = .draw → ∃ t, exec c.2 s = .next { t with draws := s.draws + 1 }
            ∧ WritesOnly s t rd (Config.draw s.draws) (s.pc + 4))
        ∧ (s.params.div0 = .function → Yields c.2 s rd (Config.divByZero c.1 (s.reg rj)) (s.pc + 4)))
  ∧ (∀ (rd rj rk : RegIdx) (s : State), s.reg rj = 0x80000000 → s.reg rk = 0xFFFFFFFF →
    ∀ c ∈ [((0x80000000 : Word), Instr.divW rd rj rk), (0, .modW rd rj rk)],
      (s.params.divOvf = .fault → exec c.2 s = .next (faultedState s (.divide s.pc)))
        ∧ (s.params.divOvf = .draw → ∃ t, exec c.2 s = .next { t with draws := s.draws + 1 }
            ∧ WritesOnly s t rd (Config.draw s.draws) (s.pc + 4))
        ∧ (s.params.divOvf = .wrap → Yields c.2 s rd c.1 (s.pc + 4)))
  ∧ Params.standard.div0 = .fault ∧ Params.standard.divOvf = .fault

/-- Quotient times divisor plus remainder is the dividend, over the values two runs of a divide and its remainder
leave in the destination. -/
def Obligations.QuotientAndRemainderRecombine : Prop :=
  ∀ (rd rj rk : RegIdx) (s tq tr : State), rd ≠ 0 → s.reg rk ≠ 0 →
    ((¬(s.reg rj = 0x80000000 ∧ s.reg rk = 0xFFFFFFFF)
        ∧ exec (.divW rd rj rk) s = .next tq ∧ exec (.modW rd rj rk) s = .next tr)
      ∨ (exec (.divWu rd rj rk) s = .next tq ∧ exec (.modWu rd rj rk) s = .next tr)) →
    tq.reg rd * s.reg rk + tr.reg rd = s.reg rj

/-! ## Loads and stores -/

/-- R147 to R151: the value of each load where the memory admits the request, else `MemFault` (address D14, byte order
D20: log entries 16, 17; fault D22). -/
def Obligations.LoadValues : Prop :=
  Selects 0xffc00000 0x28000000 (fun w => .ldB (rdField w) (rjField w) (w.extractLsb' 10 12))
    ∧ Selects 0xffc00000 0x28400000 (fun w => .ldH (rdField w) (rjField w) (w.extractLsb' 10 12))
    ∧ Selects 0xffc00000 0x28800000 (fun w => .ldW (rdField w) (rjField w) (w.extractLsb' 10 12))
    ∧ Selects 0xffc00000 0x2a000000 (fun w => .ldBu (rdField w) (rjField w) (w.extractLsb' 10 12))
    ∧ Selects 0xffc00000 0x2a400000 (fun w => .ldHu (rdField w) (rjField w) (w.extractLsb' 10 12))
    ∧ ∀ (rd rj : RegIdx) (si12 : BitVec 12) (s : State) (ea : Word), ea = s.reg rj + si12.signExtend 32 →
        (s.admits ea .byte .load = true →
          Yields (.ldB rd rj si12) s rd ((byteOf s ea 0).signExtend 32) (s.pc + 4)
            ∧ Yields (.ldBu rd rj si12) s rd ((byteOf s ea 0).setWidth 32) (s.pc + 4))
        ∧ (s.admits ea .half .load = true →
          Yields (.ldH rd rj si12) s rd ((byteOf s ea 1 ++ byteOf s ea 0).signExtend 32) (s.pc + 4)
            ∧ Yields (.ldHu rd rj si12) s rd ((byteOf s ea 1 ++ byteOf s ea 0).setWidth 32) (s.pc + 4))
        ∧ (s.admits ea .word .load = true →
          Yields (.ldW rd rj si12) s rd (byteOf s ea 3 ++ byteOf s ea 2 ++ byteOf s ea 1 ++ byteOf s ea 0) (s.pc + 4))
        ∧ (s.admits ea .byte .load = false →
          exec (.ldB rd rj si12) s = .next (faultedState s (.memory ea .byte .load))
            ∧ exec (.ldBu rd rj si12) s = .next (faultedState s (.memory ea .byte .load)))
        ∧ (s.admits ea .half .load = false →
          exec (.ldH rd rj si12) s = .next (faultedState s (.memory ea .half .load))
            ∧ exec (.ldHu rd rj si12) s = .next (faultedState s (.memory ea .half .load)))
        ∧ (s.admits ea .word .load = false →
          exec (.ldW rd rj si12) s = .next (faultedState s (.memory ea .word .load)))

/-- R152 to R154: the bytes each store writes where the memory admits the request, and no other, else `MemFault`
(address and data register D14, byte order D20: log entries 16, 17; fault D22). -/
def Obligations.StoredBytes : Prop :=
  Selects 0xffc00000 0x29000000 (fun w => .stB (rdField w) (rjField w) (w.extractLsb' 10 12))
    ∧ Selects 0xffc00000 0x29400000 (fun w => .stH (rdField w) (rjField w) (w.extractLsb' 10 12))
    ∧ Selects 0xffc00000 0x29800000 (fun w => .stW (rdField w) (rjField w) (w.extractLsb' 10 12))
    ∧ ∀ (rd rj : RegIdx) (si12 : BitVec 12) (s : State) (ea : Word), ea = effectiveAddr s rj si12 →
        ea = s.reg rj + si12.signExtend 32
        ∧ (s.admits ea .byte .store = true →
          ∃ t, exec (.stB rd rj si12) s = .next t ∧ StoresOnly s t ea 1 (s.reg rd))
        ∧ (s.admits ea .half .store = true →
          ∃ t, exec (.stH rd rj si12) s = .next t ∧ StoresOnly s t ea 2 (s.reg rd))
        ∧ (s.admits ea .word .store = true →
          ∃ t, exec (.stW rd rj si12) s = .next t ∧ StoresOnly s t ea 4 (s.reg rd))
        ∧ (s.admits ea .byte .store = false →
          exec (.stB rd rj si12) s = .next (faultedState s (.memory ea .byte .store)))
        ∧ (s.admits ea .half .store = false →
          exec (.stH rd rj si12) s = .next (faultedState s (.memory ea .half .store)))
        ∧ (s.admits ea .word .store = false →
          exec (.stW rd rj si12) s = .next (faultedState s (.memory ea .word .store)))

/-- The spec's inference R49: narrow loads of a word that `st.w` stored see its bytes, the lowest address the lowest
byte. -/
def Obligations.NarrowLoadsSeeStoredWord : Prop :=
  ∀ (rd rj rb r1 : RegIdx) (si12 : BitVec 12) (k : BitVec 12) (s t : State) (ea v : Word),
    ea = effectiveAddr s rj si12 → v = s.reg rd → s.admits ea .word .store = true →
    exec (.stW rd rj si12) s = .next t →
    (effectiveAddr t rb k = ea → t.admits ea .word .load = true →
        Yields (.ldW r1 rb k) t r1 v (t.pc + 4))
    ∧ (∀ n, n < 4 → effectiveAddr t rb k = ea + BitVec.ofNat 32 n →
        t.admits (ea + BitVec.ofNat 32 n) .byte .load = true →
        Yields (.ldBu r1 rb k) t r1 (BitVec.ofNat 32 (v.toNat / 2 ^ (8 * n) % 2 ^ 8)) (t.pc + 4))
    ∧ (∀ n, n < 3 → effectiveAddr t rb k = ea + BitVec.ofNat 32 n →
        t.admits (ea + BitVec.ofNat 32 n) .half .load = true →
        Yields (.ldHu r1 rb k) t r1 (BitVec.ofNat 32 (v.toNat / 2 ^ (8 * n) % 2 ^ 16)) (t.pc + 4))

/-- Only a store changes memory, and only the bytes at its effective address. -/
def Obligations.OnlyStoresChangeMemory : Prop :=
  ∀ (i : Instr) (s t : State) (a : Nat), exec i s = .next t → memRead t.mem a ≠ memRead s.mem a →
    ∃ rj si12 w, storeForm i = some (rj, si12, w) ∧ ∃ k, k < widthBytes w ∧ a = byteAddr (effectiveAddr s rj si12) k

/-- A memory that refuses unaligned requests (the setting R36 names as the safe direction, log entry 3) faults every
unaligned load, store and fetch. -/
def Obligations.AlignedMemoryRefusesUnaligned : Prop :=
  (∀ (i : Instr) (s : State) (rj : RegIdx) (si12 : BitVec 12) (w : Width), s.params.alignedOnly = true →
    (effectiveAddr s rj si12).toNat % widthBytes w ≠ 0 →
    (loadForm i = some (rj, si12, w) →
        exec i s = .next (faultedState s (.memory (effectiveAddr s rj si12) w .load)))
    ∧ (storeForm i = some (rj, si12, w) →
        exec i s = .next (faultedState s (.memory (effectiveAddr s rj si12) w .store))))
  ∧ ∀ s : State, s.params.alignedOnly = true → s.status = .running → s.pc.toNat % 4 ≠ 0 →
      step s = .next (faultedState s (.memory s.pc .word .fetch))

/-- The model's choice of log entry 3: a load of a byte that nothing has written is a `MemFault` where the parameter
rejects it, and completes with the free initial byte where the parameter admits it. -/
def Obligations.UnwrittenByteRead : Prop :=
  ∀ (rd rj : RegIdx) (si12 : BitVec 12) (s : State) (ea : Word), ea = effectiveAddr s rj si12 →
    memRead s.mem ea.toNat = none →
    (s.params.unwritten = .rejected →
        exec (.ldBu rd rj si12) s = .next (faultedState s (.memory ea .byte .load)))
    ∧ (s.params.unwritten = .anyValue → s.params.memAdmits = .everything →
        Yields (.ldBu rd rj si12) s rd ((Config.initialByte ea.toNat).setWidth 32) (s.pc + 4))

/-! ## Branches, jumps, call and return -/

/-- R161 to R166, with the common form R160 (operand order D17: log entry 17). -/
def Obligations.ConditionalBranches : Prop :=
  Selects 0xfc000000 0x58000000 (fun w => .beq (rjField w) (rdField w) (w.extractLsb' 10 16))
    ∧ Selects 0xfc000000 0x5c000000 (fun w => .bne (rjField w) (rdField w) (w.extractLsb' 10 16))
    ∧ Selects 0xfc000000 0x60000000 (fun w => .blt (rjField w) (rdField w) (w.extractLsb' 10 16))
    ∧ Selects 0xfc000000 0x64000000 (fun w => .bge (rjField w) (rdField w) (w.extractLsb' 10 16))
    ∧ Selects 0xfc000000 0x68000000 (fun w => .bltu (rjField w) (rdField w) (w.extractLsb' 10 16))
    ∧ Selects 0xfc000000 0x6c000000 (fun w => .bgeu (rjField w) (rdField w) (w.extractLsb' 10 16))
    ∧ ∀ (rj rd : RegIdx) (offs : BitVec 16) (s : State) (target : Word),
        target = s.pc + BitVec.ofInt 32 (offs.toInt * 4) →
        Continues (.beq rj rd offs) s (if s.reg rj = s.reg rd then target else s.pc + 4)
          ∧ Continues (.bne rj rd offs) s (if s.reg rj = s.reg rd then s.pc + 4 else target)
          ∧ Continues (.blt rj rd offs) s (if (s.reg rj).toInt < (s.reg rd).toInt then target else s.pc + 4)
          ∧ Continues (.bge rj rd offs) s (if (s.reg rj).toInt ≥ (s.reg rd).toInt then target else s.pc + 4)
          ∧ Continues (.bltu rj rd offs) s (if (s.reg rj).toNat < (s.reg rd).toNat then target else s.pc + 4)
          ∧ Continues (.bgeu rj rd offs) s (if (s.reg rj).toNat ≥ (s.reg rd).toNat then target else s.pc + 4)

/-- R167, R168: the offset is inst[9:0] ++ inst[25:10] words; the call writes `pc + 4` to `LINK_REG`
(D15, D18: log entries 13, 17). -/
def Obligations.RelativeJumpAndCall : Prop :=
  Selects 0xfc000000 0x50000000 (fun w => .b (w.extractLsb' 0 10 ++ w.extractLsb' 10 16))
    ∧ Selects 0xfc000000 0x54000000 (fun w => .bl (w.extractLsb' 0 10 ++ w.extractLsb' 10 16))
    ∧ Params.standard.linkReg = 1
    ∧ ∀ (offs : BitVec 26) (s : State) (target : Word), target = s.pc + BitVec.ofInt 32 (offs.toInt * 4) →
        Continues (.b offs) s target
          ∧ Yields (.bl offs) s s.params.linkReg (s.pc + 4) target

/-- R169: the target comes from the old `x[rj]`, its low bits are not cleared (D18: log entry 17). -/
def Obligations.JumpIndirectAndLink : Prop :=
  Selects 0xfc000000 0x4c000000 (fun w => .jirl (rdField w) (rjField w) (w.extractLsb' 10 16))
    ∧ ∀ (rd rj : RegIdx) (offs : BitVec 16) (s : State),
        Yields (.jirl rd rj offs) s rd (s.pc + 4) (s.reg rj + BitVec.ofInt 32 (offs.toInt * 4))

/-- The spec's inference in R37: a pc that is a multiple of 4 stays one under every instruction but `jirl`. -/
def Obligations.OnlyJirlMisalignsPc : Prop :=
  ∀ (i : Instr) (s t : State), exec i s = .next t → (∀ rd rj offs, i ≠ .jirl rd rj offs) →
    s.pc.toNat % 4 = 0 → t.pc.toNat % 4 = 0

/-- Only the nine control transfers set the next pc; a conditional branch sets it to its target or not at all. -/
def Obligations.NextPcIsSequentialOrTarget : Prop :=
  ∀ (i : Instr) (s t : State), s.status = .running → exec i s = .next t → t.status = .running →
    (isControlTransfer i = false → t.pc = s.pc + 4)
    ∧ ∀ (rj rd : RegIdx) (offs : BitVec 16),
        i ∈ [.beq rj rd offs, .bne rj rd offs, .blt rj rd offs, .bge rj rd offs, .bltu rj rd offs,
            Instr.bgeu rj rd offs] →
        t.pc = s.pc + 4 ∨ t.pc = s.pc + BitVec.ofInt 32 (offs.toInt * 4)

/-! ## Barriers, trap, catch-all -/

/-- R176, R177. -/
def Obligations.BarriersOnlyMovePc : Prop :=
  Selects 0xffff8000 0x38720000 (fun w => .dbar (w.extractLsb' 0 15))
    ∧ Selects 0xffff8000 0x38728000 (fun w => .ibar (w.extractLsb' 0 15))
    ∧ ∀ (h : BitVec 15) (s : State), Continues (.dbar h) s (s.pc + 4) ∧ Continues (.ibar h) s (s.pc + 4)

/-- R178: `break` raises `Trap(pc, x[EXIT_REG])` and ends the run successfully (D16: log entry 13). -/
def Obligations.BreakRaisesTrap : Prop :=
  Selects 0xffff8000 0x002a0000 (fun w => .brk (w.extractLsb' 0 15))
    ∧ Params.standard.exitReg = 4
    ∧ ∀ (c : BitVec 15) (s : State),
        ∃ t, exec (.brk c) s = .next t ∧ Signals s t (.exited s.pc (s.reg s.params.exitReg)) ∧ Successful t

/-- R179: the catch-all is selected exactly when no other template matches; it raises `Invalid(pc)`, an end that is not
a success. -/
def Obligations.CatchAllRaisesInvalid : Prop :=
  (∀ (p : Params) (w : Word), p.or2 = none →
      ((∃ v, decodeWord p w = .inv v) ↔ ∀ t ∈ specificTemplates p, w &&& t.mask ≠ t.expected))
    ∧ ∀ (w : Word) (s : State),
        ∃ t, exec (.inv w) s = .next t ∧ Signals s t (.aborted s.pc) ∧ Ended t ∧ ¬Successful t

/-! ## The step -/

/-- A running machine whose fetch is admitted runs the instruction that the four bytes at the pc decode to. -/
def Obligations.StepRunsDecodedInstruction : Prop :=
  ∀ (s : State) (i : Instr), s.status = .running → s.admits s.pc .word .fetch = true →
    decode s.params [byteOf s s.pc 0, byteOf s s.pc 1, byteOf s s.pc 2, byteOf s s.pc 3] = .ok (i, []) →
    step s = exec i s

/-- R81 with R38 (D22): a fetch that the memory does not admit ends the run and changes nothing else. -/
def Obligations.RefusedFetchEndsRun : Prop :=
  ∀ s : State, s.status = .running → s.admits s.pc .word .fetch = false →
    step s = .next (faultedState s (.memory s.pc .word .fetch))

/-- R19 (D24, log entry 5): no step is taken once the status is not `running`, however many are asked for. -/
def Obligations.EndedRunTakesNoStep : Prop :=
  ∀ (s : State) (n : Nat), Ended s →
    step s = .fault (.notRunning s.status) ∧ Host.Core.run Sys2Proof.core (n + 1) s = .fault (.notRunning s.status)

/-- R88: register 0 is 0 after every step that completes; a step that ends in `MemFault` or `DivideFault` leaves every
register as it was. -/
def Obligations.RegisterZeroAfterEveryStep : Prop :=
  ∀ s t : State, step s = .next t →
    ((∀ r, t.status ≠ .faulted r) → t.reg 0 = 0) ∧ (∀ r, t.status = .faulted r → ∀ q, t.reg q = s.reg q)

/-- R91 (D24, log entry 5): a step of a running machine has one of the five outcomes, each when the rule says
(a `DivideFault` when R138 says), with the state each leaves; the model's own refusal occurs under `P_SHIFT_IMM_HI = refuse` only (R120). -/
def Obligations.StepOutcomes : Prop :=
  ∀ s : State, s.status = .running →
    (∃ t, step s = .next t ∧
      ((t.status = .running ∧ t.reg 0 = 0 ∧ ∃ i, s.fetched = .ok i ∧ exec i s = .next t
          ∧ (∀ c, i ≠ .brk c) ∧ (∀ w, i ≠ .inv w) ∧ (isControlTransfer i = false → t.pc = s.pc + 4))
        ∨ ((∃ c, s.fetched = .ok (.brk c)) ∧ Signals s t (.exited s.pc (s.reg s.params.exitReg)))
        ∨ ((∃ w, s.fetched = .ok (.inv w)) ∧ Signals s t (.aborted s.pc))
        ∨ (s.admits s.pc .word .fetch = false ∧ t = faultedState s (.memory s.pc .word .fetch))
        ∨ (∃ i rj si12 w, s.fetched = .ok i ∧ loadForm i = some (rj, si12, w)
            ∧ s.admits (effectiveAddr s rj si12) w .load = false
            ∧ t = faultedState s (.memory (effectiveAddr s rj si12) w .load))
        ∨ (∃ i rj si12 w, s.fetched = .ok i ∧ storeForm i = some (rj, si12, w)
            ∧ s.admits (effectiveAddr s rj si12) w .store = false
            ∧ t = faultedState s (.memory (effectiveAddr s rj si12) w .store))
        ∨ (∃ i op rj rk, s.fetched = .ok i ∧ divForm i = some (op, rj, rk) ∧ t = faultedState s (.divide s.pc)
            ∧ ((s.reg rk = 0 ∧ s.params.div0 = .fault)
              ∨ ((op = .divW ∨ op = .modW) ∧ s.reg rj = 0x80000000 ∧ s.reg rk = 0xFFFFFFFF
                  ∧ s.params.divOvf = .fault)))))
    ∨ (s.params.shiftImmHi = .refuse ∧ ∃ ui5, step s = .refused (.shiftImmHi ui5))

/-- The spec's inference R190, with the causes of R185: an instruction that leaves a running machine not running is
`break`, the catch-all, a load or store the memory does not admit, or a divide by zero or with overflow under a
`fault` policy. -/
def Obligations.OnlyTheFourEventsEndARun : Prop :=
  ∀ (i : Instr) (s t : State), s.status = .running → exec i s = .next t → t.status ≠ .running →
    ((∃ c, i = .brk c) ∧ t.status = .exited s.pc (s.reg s.params.exitReg))
    ∨ ((∃ w, i = .inv w) ∧ t.status = .aborted s.pc)
    ∨ (∃ rj si12 w, loadForm i = some (rj, si12, w) ∧ s.admits (effectiveAddr s rj si12) w .load = false
        ∧ t.status = .faulted (.memory (effectiveAddr s rj si12) w .load))
    ∨ (∃ rj si12 w, storeForm i = some (rj, si12, w) ∧ s.admits (effectiveAddr s rj si12) w .store = false
        ∧ t.status = .faulted (.memory (effectiveAddr s rj si12) w .store))
    ∨ (∃ op rj rk, divForm i = some (op, rj, rk) ∧ t.status = .faulted (.divide s.pc)
        ∧ ((s.reg rk = 0 ∧ s.params.div0 = .fault)
          ∨ ((op = .divW ∨ op = .modW) ∧ s.reg rj = 0x80000000 ∧ s.reg rk = 0xFFFFFFFF
              ∧ s.params.divOvf = .fault)))

/-- R46 (D23, log entry 20): a word stored at the next pc is the instruction the next step runs. -/
def Obligations.NextStepRunsStoredWord : Prop :=
  ∀ (rd rj : RegIdx) (si12 : BitVec 12) (s t : State), s.status = .running →
    effectiveAddr s rj si12 = s.pc + 4 → s.admits (s.pc + 4) .word .store = true →
    exec (.stW rd rj si12) s = .next t → t.admits t.pc .word .fetch = true →
    step t = exec (decodeWord s.params (s.reg rd)) t

/-- No step changes the parameters; a step draws at most one free value, and only in a divide (the model's own
fields, log entries 4 and 8). -/
def Obligations.ParametersAndDraws : Prop :=
  ∀ s t : State, step s = .next t →
    t.params = s.params
      ∧ (t.draws = s.draws ∨ (t.draws = s.draws + 1 ∧ ∃ i, s.fetched = .ok i ∧ (divForm i).isSome = true))

/-- An instruction does not depend on a register it does not read: after a change of such a register `r` it answers
alike, and nothing but `r` differs in the state it leaves. -/
def Obligations.UnreadRegistersDoNotInterfere : Prop :=
  ∀ (i : Instr) (s : State) (r : RegIdx) (v : Word), r ∉ readsOf s.params i →
    (∀ t, exec i s = .next t → ∃ t', exec i (s.setReg r v) = .next t'
      ∧ (∀ q, q ≠ r → t'.reg q = t.reg q) ∧ t'.pc = t.pc ∧ t'.mem = t.mem ∧ t'.status = t.status
      ∧ t'.params = t.params ∧ t'.draws = t.draws)
    ∧ (∀ e, exec i s = .refused e → exec i (s.setReg r v) = .refused e)

/-- Every step keeps the invariant: register 0 holds 0 and memory is in canonical form. -/
def Obligations.StepKeepsInvariant : Prop := ∀ s t : State, Inv s → step s = .next t → Inv t

/-! ## Reset and loading -/

/-- The reset state meets the invariant, and so does every start of a run from canonical memory. -/
def Obligations.ResetMeetsInvariant : Prop :=
  Inv State.reset
    ∧ ∀ (pc : Word) (regs : Vector Word 32) (m : Memory) (p : Params), Memory.wf m = true → Inv (State.boot pc regs m p)

/-- What the spec fixes at the start of a run, whatever the caller chooses: `x[0]` is 0, the pc is `RESET_PC`, memory
is as loaded, the status is `running` (D25, log entry 2). -/
def Obligations.StartOfRun : Prop :=
  ∀ (pc : Word) (regs : Vector Word 32) (m : Memory) (p : Params),
    (State.boot pc regs m p).reg 0 = 0 ∧ (State.boot pc regs m p).pc = pc ∧ (State.boot pc regs m p).mem = m
      ∧ (State.boot pc regs m p).status = .running
      ∧ ∀ r : RegIdx, r ≠ 0 → (State.boot pc regs m p).reg r = regs[r.toNat]'r.isLt

/-- The model's `withFetchWord` (log entry 11): where the memory takes every request and no second `or` template is
supplied, the next step runs the instruction of the word, for every row of the table. -/
def Obligations.FetchWordIsRunNext : Prop :=
  ∀ (s : State) (w : Nat) (i : Instr), s.status = .running → s.params.or2 = none →
    s.params.memAdmits = .everything → s.params.alignedOnly = false → decodeTableWord 32 w = some i →
    step (s.withFetchWord 32 w) = exec i (s.withFetchWord 32 w)
end

