-- ==== Sys2Proof/Laws/Encoding.lean ====
section
/-! SUPPORT. Words as numbers: the encoder's words, the fields and the template masks in arithmetic, so that facts
about encodings are linear arithmetic. -/

namespace Sys2Proof

/-- Masking with the bits from `k` up. -/
theorem toNat_and_high (w m : Word) (k : Nat) (hk : k ≤ 32) (hm : m = BitVec.allOnes 32 <<< k) :
    (w &&& m).toNat = w.toNat / 2 ^ k * 2 ^ k := by
  have h : w &&& m = (w >>> k) <<< k := by
    subst hm
    apply BitVec.eq_of_getLsbD_eq
    intro i hi
    by_cases hik : i < k
    · simp [hik]
    · have hik' : i - k < 32 := by omega
      have : k + (i - k) = i := by omega
      have hones : (BitVec.allOnes 32).getLsbD (i - k) = true := by simp [hik', -BitVec.reduceAllOnes]
      simp only [BitVec.getLsbD_and, BitVec.getLsbD_shiftLeft, BitVec.getLsbD_ushiftRight, hi, hik, this, hones]
      simp
  rw [h, BitVec.toNat_shiftLeft, BitVec.toNat_ushiftRight, Nat.shiftRight_eq_div_pow, Nat.shiftLeft_eq]
  apply Nat.mod_eq_of_lt
  exact lt_of_le_of_lt (Nat.div_mul_le_self _ _) w.isLt

theorem toNat_and_17 (w : Word) : (w &&& 0xffff8000#32).toNat = w.toNat / 2 ^ 15 * 2 ^ 15 :=
  toNat_and_high w _ 15 (by decide) (by decide)
theorem toNat_and_10 (w : Word) : (w &&& 0xffc00000#32).toNat = w.toNat / 2 ^ 22 * 2 ^ 22 :=
  toNat_and_high w _ 22 (by decide) (by decide)
theorem toNat_and_7 (w : Word) : (w &&& 0xfe000000#32).toNat = w.toNat / 2 ^ 25 * 2 ^ 25 :=
  toNat_and_high w _ 25 (by decide) (by decide)
theorem toNat_and_6 (w : Word) : (w &&& 0xfc000000#32).toNat = w.toNat / 2 ^ 26 * 2 ^ 26 :=
  toNat_and_high w _ 26 (by decide) (by decide)
theorem toNat_and_0 (w : Word) : (w &&& 0x00000000#32).toNat = 0 := by simp

theorem toNat_append {n m : Nat} (x : BitVec n) (y : BitVec m) :
    (x ++ y).toNat = x.toNat * 2 ^ m + y.toNat := by
  rw [BitVec.toNat_append, ← Nat.shiftLeft_add_eq_or_of_lt y.isLt, Nat.shiftLeft_eq]

theorem encodeRegReg_toNat (op : BitVec 17) (rd rj rk : RegIdx) :
    (encodeRegReg op rd rj rk).toNat = ((op.toNat * 2 ^ 5 + rk.toNat) * 2 ^ 5 + rj.toNat) * 2 ^ 5 + rd.toNat := by
  simp only [encodeRegReg, toNat_append]

theorem encodeImm12_toNat (op : BitVec 10) (rd rj : RegIdx) (i : BitVec 12) :
    (encodeImm12 op rd rj i).toNat = ((op.toNat * 2 ^ 12 + i.toNat) * 2 ^ 5 + rj.toNat) * 2 ^ 5 + rd.toNat := by
  simp only [encodeImm12, toNat_append]

theorem encodeImm16_toNat (op : BitVec 6) (rd rj : RegIdx) (i : BitVec 16) :
    (encodeImm16 op rd rj i).toNat = ((op.toNat * 2 ^ 16 + i.toNat) * 2 ^ 5 + rj.toNat) * 2 ^ 5 + rd.toNat := by
  simp only [encodeImm16, toNat_append]

theorem encodeImm20_toNat (op : BitVec 7) (rd : RegIdx) (i : BitVec 20) :
    (encodeImm20 op rd i).toNat = (op.toNat * 2 ^ 20 + i.toNat) * 2 ^ 5 + rd.toNat := by
  simp only [encodeImm20, toNat_append]

theorem encodeImm26_toNat (op : BitVec 6) (i : BitVec 26) :
    (encodeImm26 op i).toNat = (op.toNat * 2 ^ 16 + i.toNat % 2 ^ 16) * 2 ^ 10 + i.toNat / 2 ^ 16 := by
  simp only [encodeImm26, toNat_append, BitVec.extractLsb'_toNat, Nat.shiftRight_eq_div_pow]
  have := i.isLt
  omega

theorem encodeHint15_toNat (op : BitVec 17) (h : BitVec 15) :
    (encodeHint15 op h).toNat = op.toNat * 2 ^ 15 + h.toNat := by
  simp only [encodeHint15, toNat_append]

/-! ## Fields as numbers -/

theorem rdField_toNat (w : Word) : (rdField w).toNat = w.toNat % 2 ^ 5 := by
  simp [rdField, BitVec.extractLsb'_toNat]
theorem rjField_toNat (w : Word) : (rjField w).toNat = w.toNat / 2 ^ 5 % 2 ^ 5 := by
  simp [rjField, BitVec.extractLsb'_toNat, Nat.shiftRight_eq_div_pow]
theorem rkField_toNat (w : Word) : (rkField w).toNat = w.toNat / 2 ^ 10 % 2 ^ 5 := by
  simp [rkField, BitVec.extractLsb'_toNat, Nat.shiftRight_eq_div_pow]
theorem imm5Field_toNat (w : Word) : (imm5Field w).toNat = w.toNat / 2 ^ 10 % 2 ^ 5 := by
  simp [imm5Field, BitVec.extractLsb'_toNat, Nat.shiftRight_eq_div_pow]
theorem imm12Field_toNat (w : Word) : (imm12Field w).toNat = w.toNat / 2 ^ 10 % 2 ^ 12 := by
  simp [imm12Field, BitVec.extractLsb'_toNat, Nat.shiftRight_eq_div_pow]
theorem imm16Field_toNat (w : Word) : (imm16Field w).toNat = w.toNat / 2 ^ 10 % 2 ^ 16 := by
  simp [imm16Field, BitVec.extractLsb'_toNat, Nat.shiftRight_eq_div_pow]
theorem imm20Field_toNat (w : Word) : (imm20Field w).toNat = w.toNat / 2 ^ 5 % 2 ^ 20 := by
  simp [imm20Field, BitVec.extractLsb'_toNat, Nat.shiftRight_eq_div_pow]
theorem imm26Field_toNat (w : Word) :
    (imm26Field w).toNat = w.toNat % 2 ^ 10 * 2 ^ 16 + w.toNat / 2 ^ 10 % 2 ^ 16 := by
  simp only [imm26Field, toNat_append, BitVec.extractLsb'_toNat, Nat.shiftRight_eq_div_pow, pow_zero, Nat.div_one]
theorem imm15Field_toNat (w : Word) : (imm15Field w).toNat = w.toNat % 2 ^ 15 := by
  simp [imm15Field, BitVec.extractLsb'_toNat]

/-- A template hits a word when the masked word has the number of the expected bits. -/
theorem hits_iff (t : Template) (w : Word) : t.hits w = true ↔ (w &&& t.mask).toNat = t.expected.toNat := by
  rw [BitVec.toNat_inj, Template.hits, beq_iff_eq]

end Sys2Proof
end

