-- ==== Sys2Proof/Laws/State.lean ====
section
/-! SUPPORT. The fields of State under each update, and the register file read after a write. -/

namespace Sys2Proof.Machine

/-! ## Fields under each update -/

@[simp] theorem setReg_pc (s : State) (r : RegIdx) (v : Word) : (s.setReg r v).pc = s.pc := rfl
@[simp] theorem setReg_mem (s : State) (r : RegIdx) (v : Word) : (s.setReg r v).mem = s.mem := rfl
@[simp] theorem setReg_status (s : State) (r : RegIdx) (v : Word) : (s.setReg r v).status = s.status := rfl
@[simp] theorem setReg_params (s : State) (r : RegIdx) (v : Word) : (s.setReg r v).params = s.params := rfl
@[simp] theorem setReg_draws (s : State) (r : RegIdx) (v : Word) : (s.setReg r v).draws = s.draws := rfl
@[simp] theorem setReg_snpc (s : State) (r : RegIdx) (v : Word) : (s.setReg r v).snpc = s.snpc := rfl

@[simp] theorem retire_pc (s : State) (t : Word) : (s.retire t).pc = t := rfl
@[simp] theorem retire_mem (s : State) (t : Word) : (s.retire t).mem = s.mem := rfl
@[simp] theorem retire_status (s : State) (t : Word) : (s.retire t).status = s.status := rfl
@[simp] theorem retire_params (s : State) (t : Word) : (s.retire t).params = s.params := rfl
@[simp] theorem retire_draws (s : State) (t : Word) : (s.retire t).draws = s.draws := rfl

@[simp] theorem writeBack_pc (s : State) (r : RegIdx) (v : Word) : (s.writeBack r v).pc = s.pc + 4 := rfl
@[simp] theorem writeBack_mem (s : State) (r : RegIdx) (v : Word) : (s.writeBack r v).mem = s.mem := rfl
@[simp] theorem writeBack_status (s : State) (r : RegIdx) (v : Word) : (s.writeBack r v).status = s.status := rfl
@[simp] theorem writeBack_params (s : State) (r : RegIdx) (v : Word) : (s.writeBack r v).params = s.params := rfl
@[simp] theorem writeBack_draws (s : State) (r : RegIdx) (v : Word) : (s.writeBack r v).draws = s.draws := rfl

@[simp] theorem store_pc (s : State) (a : Word) (n : Nat) (v : Word) : (s.store a n v).pc = s.pc := rfl
@[simp] theorem store_mem (s : State) (a : Word) (n : Nat) (v : Word) :
    (s.store a n v).mem = writeRaw s.mem a n v := rfl
@[simp] theorem store_status (s : State) (a : Word) (n : Nat) (v : Word) : (s.store a n v).status = s.status := rfl
@[simp] theorem store_params (s : State) (a : Word) (n : Nat) (v : Word) : (s.store a n v).params = s.params := rfl
@[simp] theorem store_draws (s : State) (a : Word) (n : Nat) (v : Word) : (s.store a n v).draws = s.draws := rfl
@[simp] theorem store_reg (s : State) (a : Word) (n : Nat) (v : Word) (r : RegIdx) :
    (s.store a n v).reg r = s.reg r := rfl
@[simp] theorem store_snpc (s : State) (a : Word) (n : Nat) (v : Word) : (s.store a n v).snpc = s.snpc := rfl

@[simp] theorem raiseEvent_pc (s : State) (e : Event) : (s.raiseEvent e).pc = s.pc := by cases e <;> rfl
@[simp] theorem raiseEvent_mem (s : State) (e : Event) : (s.raiseEvent e).mem = s.mem := by cases e <;> rfl
@[simp] theorem raiseEvent_params (s : State) (e : Event) : (s.raiseEvent e).params = s.params := by cases e <;> rfl
@[simp] theorem raiseEvent_draws (s : State) (e : Event) : (s.raiseEvent e).draws = s.draws := by cases e <;> rfl
@[simp] theorem raiseEvent_trap_status (s : State) (p c : Word) :
    (s.raiseEvent (.trap p c)).status = .exited p c := rfl
@[simp] theorem raiseEvent_invalid_status (s : State) (p : Word) :
    (s.raiseEvent (.invalid p)).status = .aborted p := rfl
@[simp] theorem raiseEvent_fault_status (s : State) (r : FaultReason) :
    (s.raiseEvent (.fault r)).status = .faulted r := rfl
@[simp] theorem raiseEvent_fault_reg (s : State) (r : FaultReason) (q : RegIdx) :
    (s.raiseEvent (.fault r)).reg q = s.reg q := rfl

/-! ## Registers -/

theorem setReg_reg (s : State) (r q : RegIdx) (v : Word) :
    (s.setReg r v).reg q = if q = r then v else s.reg q := by
  simp only [State.reg, State.setReg, Vector.getElem_set]
  by_cases h : q = r
  · simp [h]
  · have hne : r.toNat ≠ q.toNat := fun e => h (BitVec.eq_of_toNat_eq e.symm)
    simp [h, hne]

/-- Register 0 is zeroed by a step that completes; every other register passes (40_step.md R88). -/
@[simp] theorem retire_reg (s : State) (t : Word) (q : RegIdx) :
    (s.retire t).reg q = if q = 0 then 0 else s.reg q := setReg_reg s 0 q 0

@[simp] theorem writeBack_reg (s : State) (r q : RegIdx) (v : Word) :
    (s.writeBack r v).reg q = if q = 0 then 0 else if q = r then v else s.reg q := by
  simp only [State.writeBack, retire_reg, setReg_reg]

@[simp] theorem raiseEvent_trap_reg (s : State) (p c : Word) (q : RegIdx) :
    (s.raiseEvent (.trap p c)).reg q = if q = 0 then 0 else s.reg q := setReg_reg s 0 q 0

@[simp] theorem raiseEvent_invalid_reg (s : State) (p : Word) (q : RegIdx) :
    (s.raiseEvent (.invalid p)).reg q = if q = 0 then 0 else s.reg q := setReg_reg s 0 q 0

/-! ## The start of a run -/

@[simp] theorem boot_pc (pc : Word) (rs : Vector Word 32) (m : Memory) (p : Params) :
    (State.boot pc rs m p).pc = pc := rfl
@[simp] theorem boot_mem (pc : Word) (rs : Vector Word 32) (m : Memory) (p : Params) :
    (State.boot pc rs m p).mem = m := rfl
@[simp] theorem boot_status (pc : Word) (rs : Vector Word 32) (m : Memory) (p : Params) :
    (State.boot pc rs m p).status = .running := rfl
@[simp] theorem boot_params (pc : Word) (rs : Vector Word 32) (m : Memory) (p : Params) :
    (State.boot pc rs m p).params = p := rfl

end Sys2Proof.Machine
end

