-- ==== Sys2Proof/Laws/Memory.lean ====
section
/-! SUPPORT. Memory: a read after a write, and the canonical form, which every memory operation keeps. -/

namespace Sys2Proof.Machine

theorem memRead_memWrite (m : Memory) (a b : Nat) (v : Byte) :
    memRead (memWrite m a v) b = if b = a then some v else memRead m b := by
  induction m with
  | nil => simp [memWrite, memRead]
  | cons c m ih =>
    obtain ⟨c, u⟩ := c
    simp only [memWrite]
    by_cases h1 : a < c
    · rw [if_pos h1]; rfl
    · rw [if_neg h1]
      by_cases h2 : a = c
      · subst h2
        rw [if_pos rfl]
        simp only [memRead]
        split_ifs <;> rfl
      · rw [if_neg h2]
        simp only [memRead, ih]
        by_cases h3 : b = c
        · have : b ≠ a := by omega
          simp [h3, h3 ▸ this]
        · simp [h3]

/-- A byte written twice keeps the second value. -/
theorem memRead_memWrite_same (m : Memory) (a : Nat) (v : Byte) : memRead (memWrite m a v) a = some v := by
  simp [memRead_memWrite]

theorem memRead_memWrite_other (m : Memory) (a b : Nat) (v : Byte) (h : b ≠ a) :
    memRead (memWrite m a v) b = memRead m b := by
  simp [memRead_memWrite, h]

theorem memRising_mono (m : Memory) (l k : Nat) (h : l ≤ k) (hm : memRising k m = true) : memRising l m = true := by
  cases m with
  | nil => rfl
  | cons c m =>
    simp only [memRising, Bool.and_eq_true, decide_eq_true_eq] at hm ⊢
    exact ⟨⟨le_trans h hm.1.1, hm.1.2⟩, hm.2⟩

theorem memRising_memWrite (m : Memory) (l a : Nat) (v : Byte) (hl : l ≤ a) (ha : a < 2 ^ 32)
    (hm : memRising l m = true) : memRising l (memWrite m a v) = true := by
  induction m generalizing l with
  | nil => simp only [memWrite, memRising, hl, ha, decide_true, Bool.and_self]
  | cons c m ih =>
    obtain ⟨c, u⟩ := c
    simp only [memRising, Bool.and_eq_true, decide_eq_true_eq] at hm
    simp only [memWrite]
    split_ifs with h1 h2 <;> simp only [memRising, Bool.and_eq_true, decide_eq_true_eq]
    · exact ⟨⟨hl, ha⟩, ⟨h1, hm.1.2⟩, hm.2⟩
    · subst h2; exact hm
    · exact ⟨hm.1, ih (c + 1) (by omega) hm.2⟩

/-- A byte write keeps the canonical form. -/
theorem memWrite_wf (m : Memory) (a : Nat) (v : Byte) (ha : a < 2 ^ 32) (hm : Memory.wf m = true) :
    Memory.wf (memWrite m a v) = true := memRising_memWrite m 0 a v (Nat.zero_le a) ha hm

/-- A write request keeps the canonical form. -/
theorem writeRaw_wf (m : Memory) (a : Word) (n : Nat) (v : Word) (hm : Memory.wf m = true) :
    Memory.wf (writeRaw m a n v) = true := by
  induction n generalizing m a v with
  | zero => exact hm
  | succ n ih => exact ih _ _ _ (memWrite_wf m a.toNat _ a.isLt hm)

/-- A write request changes only the bytes it names. -/
theorem memRead_writeRaw_other (m : Memory) (a : Word) (n : Nat) (v : Word) (b : Nat)
    (h : ∀ i, i < n → b ≠ byteAddr a i) : memRead (writeRaw m a n v) b = memRead m b := by
  induction n generalizing m a v with
  | zero => rfl
  | succ n ih =>
    have h0 : b ≠ a.toNat := by simpa [byteAddr] using h 0 (Nat.succ_pos n)
    rw [writeRaw, ih, memRead_memWrite_other _ _ _ _ h0]
    intro i hi
    have := h (i + 1) (by omega)
    simpa [byteAddr, BitVec.ofNat_add, BitVec.add_assoc, BitVec.add_comm 1#32] using this

/-- Two canonical memories that hold the same bytes are the same list. -/
theorem memRead_lt_rising (m : Memory) (l a : Nat) (hm : memRising l m = true) (h : a < l) : memRead m a = none := by
  induction m generalizing l with
  | nil => rfl
  | cons c m ih =>
    obtain ⟨c, u⟩ := c
    simp only [memRising, Bool.and_eq_true, decide_eq_true_eq] at hm
    simp only [memRead]
    rw [if_neg (by omega), ih (c + 1) hm.2 (by omega)]

theorem memory_ext (m m' : Memory) (l : Nat) (hm : memRising l m = true) (hm' : memRising l m' = true)
    (h : ∀ a, memRead m a = memRead m' a) : m = m' := by
  induction m generalizing l m' with
  | nil =>
    cases m' with
    | nil => rfl
    | cons c m' => obtain ⟨c, u⟩ := c; have := h c; simp [memRead] at this
  | cons c m ih =>
    obtain ⟨c, u⟩ := c
    cases m' with
    | nil => have := h c; simp [memRead] at this
    | cons d m' =>
      obtain ⟨d, w⟩ := d
      simp only [memRising, Bool.and_eq_true, decide_eq_true_eq] at hm hm'
      have hcd : c = d := by
        rcases Nat.lt_trichotomy c d with hlt | heq | hgt
        · have := h c
          simp only [memRead, if_true, if_neg (Nat.ne_of_lt hlt),
            memRead_lt_rising m' (d + 1) c hm'.2 (by omega)] at this
          cases this
        · exact heq
        · have := h d
          simp only [memRead, if_true, if_neg (Nat.ne_of_lt hgt),
            memRead_lt_rising m (c + 1) d hm.2 (by omega)] at this
          cases this
      subst hcd
      have hu : u = w := by simpa [memRead] using h c
      subst hu
      refine congrArg _ (ih m' (c + 1) hm.2 hm'.2 fun a => ?_)
      by_cases hac : a = c
      · rw [hac, memRead_lt_rising m (c + 1) c hm.2 (by omega), memRead_lt_rising m' (c + 1) c hm'.2 (by omega)]
      · simpa [memRead, hac] using h a

/-- Equal memories are equal data: in canonical form the bytes determine the list. -/
theorem memory_eq_of_reads (m m' : Memory) (hm : Memory.wf m = true) (hm' : Memory.wf m' = true)
    (h : ∀ a, memRead m a = memRead m' a) : m = m' := memory_ext m m' 0 hm hm' h

/-- Reset's memory has the canonical form. -/
theorem reset_mem_wf : Memory.wf State.reset.mem = true := rfl

end Sys2Proof.Machine
end

