-- ==== Sys2Proof/Laws/Operands.lean ====
section
/-! SUPPORT. Operands: the members of each Operand Set, and what the actions make of an immediate, in arithmetic. -/

namespace Sys2Proof.Machine

/-! ## Members of the Operand Sets -/

@[simp] theorem regReg_src1 (s : State) (rj rk : RegIdx) : (regReg s rj rk).src1 = s.reg rj := rfl
@[simp] theorem regReg_src2 (s : State) (rj rk : RegIdx) : (regReg s rj rk).src2 = s.reg rk := rfl
@[simp] theorem regImm12s_src1 (s : State) (rj : RegIdx) (i : BitVec 12) : (regImm12s s rj i).src1 = s.reg rj := rfl
@[simp] theorem regImm12s_imm (s : State) (rj : RegIdx) (i : BitVec 12) : (regImm12s s rj i).imm = sext12 i := rfl
@[simp] theorem regImm12u_src1 (s : State) (rj : RegIdx) (i : BitVec 12) : (regImm12u s rj i).src1 = s.reg rj := rfl
@[simp] theorem regImm12u_imm (s : State) (rj : RegIdx) (i : BitVec 12) : (regImm12u s rj i).imm = sext12 i := rfl
@[simp] theorem regImm16s_src1 (s : State) (rj : RegIdx) (i : BitVec 16) : (regImm16s s rj i).src1 = s.reg rj := rfl
@[simp] theorem regImm16s_imm (s : State) (rj : RegIdx) (i : BitVec 16) : (regImm16s s rj i).imm = sext16 i := rfl
@[simp] theorem regImm20s_imm (i : BitVec 20) : (regImm20s i).imm = sext20 i := rfl
@[simp] theorem imm26s_imm (i : BitVec 26) : (imm26s i).imm = sext26 i := rfl
@[simp] theorem regImm5u_src1 (s : State) (rj : RegIdx) (i : BitVec 5) : (regImm5u s rj i).src1 = s.reg rj := rfl
@[simp] theorem regImm5u_imm (s : State) (rj : RegIdx) (i : BitVec 5) : (regImm5u s rj i).imm = sext5 i := rfl
@[simp] theorem effectiveAddr_eq (s : State) (rj : RegIdx) (i : BitVec 12) :
    effectiveAddr s rj i = s.reg rj + sext12 i := rfl

/-! ## Immediates -/

theorem sext5_toNat_mod (i : BitVec 5) : (sext5 i).toNat % 32 = i.toNat := by
  revert i; decide

theorem sext12_toInt (i : BitVec 12) : (sext12 i).toInt = i.toInt := BitVec.toInt_signExtend_of_le (by omega)
theorem sext16_toInt (i : BitVec 16) : (sext16 i).toInt = i.toInt := BitVec.toInt_signExtend_of_le (by omega)
theorem sext20_toInt (i : BitVec 20) : (sext20 i).toInt = i.toInt := BitVec.toInt_signExtend_of_le (by omega)
theorem sext26_toInt (i : BitVec 26) : (sext26 i).toInt = i.toInt := BitVec.toInt_signExtend_of_le (by omega)

/-- `imm & 0xFFF` is `zext_12` of the field (30_encoding.md R60). -/
theorem sext12_and_fff (i : BitVec 12) : sext12 i &&& 0x00000FFF = i.setWidth 32 := by
  apply BitVec.eq_of_getLsbD_eq
  intro k hk
  unfold sext12
  interval_cases k <;> simp [BitVec.getElem_signExtend]

/-- `v << 2` is four times `v`. -/
theorem shiftLeft_two (v : Word) : v <<< 2 = BitVec.ofInt 32 (v.toInt * 4) := by
  rw [BitVec.ofInt_mul, BitVec.ofInt_toInt]
  apply BitVec.eq_of_toNat_eq
  simp [Nat.shiftLeft_eq]

/-- The shift amount is the value modulo 32. -/
theorem shiftAmount_eq (v : Word) : shiftAmount v = v.toNat % 32 := by
  simp [shiftAmount, BitVec.extractLsb'_toNat]

theorem shiftAmount_sext5 (i : BitVec 5) : shiftAmount (sext5 i) = i.toNat := by
  rw [shiftAmount_eq, sext5_toNat_mod]

/-! ## Compares -/

theorem boolWord_ltSigned (a b : Word) : boolWord (ltSigned a b) = if a.toInt < b.toInt then 1 else 0 := by
  by_cases h : a.toInt < b.toInt <;> simp [boolWord, ltSigned, h]

theorem boolWord_ltUnsigned (a b : Word) : boolWord (ltUnsigned a b) = if a.toNat < b.toNat then 1 else 0 := by
  by_cases h : a.toNat < b.toNat <;> simp [boolWord, ltUnsigned, h]

theorem ltSigned_iff (a b : Word) : ltSigned a b = true ↔ a.toInt < b.toInt := decide_eq_true_iff

theorem ltUnsigned_iff (a b : Word) : ltUnsigned a b = true ↔ a.toNat < b.toNat := decide_eq_true_iff

end Sys2Proof.Machine
end

