-- ==== Sys2Proof/Laws/Ops.lean ====
section
/-! SUPPORT. What each shared operation can do, said once: the operation unfolded into its cases. -/

namespace Sys2Proof.Machine

/-- A load completes where the memory admits it, and is a `MemFault` elsewhere. -/
theorem loadInto_cases (s : State) (w : Width) (f : Word → Word) (rd : RegIdx) (ea : Word) :
    (s.admits ea w .load = true ∧ s.loadInto w f rd ea = s.writeBack rd (f (s.readRaw ea (widthBytes w))))
      ∨ (s.admits ea w .load = false ∧ s.loadInto w f rd ea = s.raiseEvent (.fault (.memory ea w .load))) := by
  unfold State.loadInto
  cases h : s.admits ea w .load <;> simp

/-- A store completes where the memory admits it, and is a `MemFault` elsewhere. -/
theorem storeFrom_cases (s : State) (w : Width) (ea v : Word) :
    (s.admits ea w .store = true ∧ s.storeFrom w ea v = (s.store ea (widthBytes w) v).retire s.snpc)
      ∨ (s.admits ea w .store = false ∧ s.storeFrom w ea v = s.raiseEvent (.fault (.memory ea w .store))) := by
  unfold State.storeFrom
  cases h : s.admits ea w .store <;> simp

/-- A branch retires, to its target or to `pc + 4`. -/
theorem branch_cases (s : State) (c : Bool) (imm : Word) :
    (c = true ∧ s.branch c imm = s.retire (s.relTarget imm))
      ∨ (c = false ∧ s.branch c imm = s.retire s.snpc) := by
  cases c <;> simp [State.branch]

/-- What a divide can do: complete with the exact result, with a drawn value, with the caller's function or with the
wrapped result, or end the run with `DivideFault`. -/
theorem divide_cases (s : State) (op : DivOp) (rd : RegIdx) (a b : Word) :
    (b ≠ 0 ∧ divOverflows op a b = false ∧ s.divide op rd a b = s.writeBack rd (divExact op a b))
      ∨ (b = 0 ∧ s.params.div0 = .function ∧ s.divide op rd a b = s.writeBack rd (Config.divByZero op a))
      ∨ (b ≠ 0 ∧ divOverflows op a b = true ∧ s.params.divOvf = .wrap
          ∧ s.divide op rd a b = s.writeBack rd (divWrapped op))
      ∨ ((b = 0 ∧ s.params.div0 = .draw ∨ b ≠ 0 ∧ divOverflows op a b = true ∧ s.params.divOvf = .draw)
          ∧ s.divide op rd a b = s.drawInto rd)
      ∨ ((b = 0 ∧ s.params.div0 = .fault ∨ b ≠ 0 ∧ divOverflows op a b = true ∧ s.params.divOvf = .fault)
          ∧ s.divide op rd a b = s.raiseEvent (.fault (.divide s.pc))) := by
  unfold State.divide State.divByZero State.divOverflow State.divideFault
  by_cases hb : b = 0
  · cases h : s.params.div0 <;> simp [hb]
  · have hb' : ¬b = 0#32 := hb
    cases ho : divOverflows op a b
    · simp [hb']
    · cases h : s.params.divOvf <;> simp [hb']

@[simp] theorem drawInto_reg (s : State) (rd q : RegIdx) :
    (s.drawInto rd).reg q = if q = 0 then 0 else if q = rd then Config.draw s.draws else s.reg q :=
  writeBack_reg s rd q _
@[simp] theorem drawInto_pc (s : State) (rd : RegIdx) : (s.drawInto rd).pc = s.pc + 4 := rfl
@[simp] theorem drawInto_mem (s : State) (rd : RegIdx) : (s.drawInto rd).mem = s.mem := rfl
@[simp] theorem drawInto_status (s : State) (rd : RegIdx) : (s.drawInto rd).status = s.status := rfl
@[simp] theorem drawInto_params (s : State) (rd : RegIdx) : (s.drawInto rd).params = s.params := rfl
@[simp] theorem drawInto_draws (s : State) (rd : RegIdx) : (s.drawInto rd).draws = s.draws + 1 := rfl

/-- An immediate shift writes back its value, or is refused under `P_SHIFT_IMM_HI = refuse` with inst[14] = 1. -/
theorem shiftImm_cases (s : State) (rd : RegIdx) (ui5 : BitVec 5) (v : Word) :
    (¬(s.params.shiftImmHi = .refuse ∧ ui5.msb = true) ∧ s.shiftImm rd ui5 v = .next (s.writeBack rd v))
      ∨ ((s.params.shiftImmHi = .refuse ∧ ui5.msb = true) ∧ s.shiftImm rd ui5 v = .refused (.shiftImmHi ui5)) := by
  unfold State.shiftImm
  by_cases h : s.params.shiftImmHi = .refuse ∧ ui5.msb = true <;> simp [h]

/-- The four bytes of a word request. -/
theorem readRaw_word (s : State) (a : Word) :
    s.readRaw a 4 = (s.byteAt a.toNat).setWidth 32 ||| (((s.byteAt (a + 1).toNat).setWidth 32
      ||| (((s.byteAt (a + 1 + 1).toNat).setWidth 32
      ||| (((s.byteAt (a + 1 + 1 + 1).toNat).setWidth 32 ||| (0 <<< 8)) <<< 8)) <<< 8)) <<< 8) := rfl

/-- What a step of a running machine does: execute the fetched instruction, or end the run with the fetch's fault. -/
theorem step_running (s : State) (h : s.status = .running) :
    (∃ i, s.fetched = .ok i ∧ step s = exec i s)
      ∨ (∃ r, s.fetched = .error r ∧ step s = .next (s.raiseEvent (.fault r))) := by
  unfold step
  rw [h]
  cases hf : s.fetched with
  | ok i => exact .inl ⟨i, rfl, rfl⟩
  | error r => exact .inr ⟨r, rfl, rfl⟩

/-- No step is taken once the run has ended. -/
theorem step_ended (s : State) (h : s.status ≠ .running) : step s = .fault (.notRunning s.status) := by
  unfold step
  cases hs : s.status <;> simp_all

end Sys2Proof.Machine
end

