-- ==== Sys2Proof/Laws/PerInstr.lean ====
section
/-! SUPPORT. Facts about every instruction as syntax, one lemma per constructor.
FixedBits: the word of an instruction has the fixed bits of its template (30_encoding.md R52, R53, R66, R72). -/

namespace Sys2Proof.Laws

/-- The (mask, match) of the instruction's row (R66, R72). -/
def fixedBits : Instr → Word × Word
  | .addW _ _ _ => (0xffff8000, 0x00100000)
  | .subW _ _ _ => (0xffff8000, 0x00110000)
  | .divW _ _ _ => (0xffff8000, 0x00200000)
  | .modW _ _ _ => (0xffff8000, 0x00208000)
  | .divWu _ _ _ => (0xffff8000, 0x00210000)
  | .modWu _ _ _ => (0xffff8000, 0x00218000)
  | .or _ _ _ => (0xffff8000, 0x00150000)
  | .and _ _ _ => (0xffff8000, 0x00148000)
  | .xor _ _ _ => (0xffff8000, 0x00158000)
  | .nor _ _ _ => (0xffff8000, 0x00140000)
  | .ori _ _ _ => (0xffc00000, 0x03800000)
  | .andi _ _ _ => (0xffc00000, 0x03400000)
  | .xori _ _ _ => (0xffc00000, 0x03c00000)
  | .addiW _ _ _ => (0xffc00000, 0x02800000)
  | .slt _ _ _ => (0xffff8000, 0x00120000)
  | .sltu _ _ _ => (0xffff8000, 0x00128000)
  | .sllW _ _ _ => (0xffff8000, 0x00170000)
  | .srlW _ _ _ => (0xffff8000, 0x00178000)
  | .sraW _ _ _ => (0xffff8000, 0x00180000)
  | .slliW _ _ _ => (0xffff8000, 0x00408000)
  | .srliW _ _ _ => (0xffff8000, 0x00448000)
  | .sraiW _ _ _ => (0xffff8000, 0x00488000)
  | .mulW _ _ _ => (0xffff8000, 0x001c0000)
  | .mulhW _ _ _ => (0xffff8000, 0x001c8000)
  | .mulhWu _ _ _ => (0xffff8000, 0x001d0000)
  | .ldB _ _ _ => (0xffc00000, 0x28000000)
  | .ldH _ _ _ => (0xffc00000, 0x28400000)
  | .ldW _ _ _ => (0xffc00000, 0x28800000)
  | .ldBu _ _ _ => (0xffc00000, 0x2a000000)
  | .ldHu _ _ _ => (0xffc00000, 0x2a400000)
  | .stB _ _ _ => (0xffc00000, 0x29000000)
  | .stH _ _ _ => (0xffc00000, 0x29400000)
  | .stW _ _ _ => (0xffc00000, 0x29800000)
  | .pcaddu12i _ _ => (0xfe000000, 0x1c000000)
  | .lu12iW _ _ => (0xfe000000, 0x14000000)
  | .bl _ => (0xfc000000, 0x54000000)
  | .b _ => (0xfc000000, 0x50000000)
  | .jirl _ _ _ => (0xfc000000, 0x4c000000)
  | .beq _ _ _ => (0xfc000000, 0x58000000)
  | .bne _ _ _ => (0xfc000000, 0x5c000000)
  | .blt _ _ _ => (0xfc000000, 0x60000000)
  | .bge _ _ _ => (0xfc000000, 0x64000000)
  | .bltu _ _ _ => (0xfc000000, 0x68000000)
  | .bgeu _ _ _ => (0xfc000000, 0x6c000000)
  | .dbar _ => (0xffff8000, 0x38720000)
  | .ibar _ => (0xffff8000, 0x38728000)
  | .slti _ _ _ => (0xffc00000, 0x02000000)
  | .sltui _ _ _ => (0xffc00000, 0x02400000)
  | .brk _ => (0xffff8000, 0x002a0000)
  | .inv _ => (0x00000000, 0x00000000)

/-- The word of `i` selects the template of `i` by its fixed bits. -/
def FixedBits.Statement (i : Instr) : Prop := encode i &&& (fixedBits i).1 = (fixedBits i).2

theorem fixed_regReg (op : BitVec 17) (rd rj rk : RegIdx) (e : Word) (h : e.toNat = op.toNat * 2 ^ 15) :
    encodeRegReg op rd rj rk &&& 0xffff8000#32 = e := by
  apply BitVec.eq_of_toNat_eq
  rw [toNat_and_17, encodeRegReg_toNat, h]
  have := rd.isLt; have := rj.isLt; have := rk.isLt
  omega

theorem fixed_imm12 (op : BitVec 10) (rd rj : RegIdx) (i : BitVec 12) (e : Word) (h : e.toNat = op.toNat * 2 ^ 22) :
    encodeImm12 op rd rj i &&& 0xffc00000#32 = e := by
  apply BitVec.eq_of_toNat_eq
  rw [toNat_and_10, encodeImm12_toNat, h]
  have := rd.isLt; have := rj.isLt; have := i.isLt
  omega

theorem fixed_imm16 (op : BitVec 6) (rd rj : RegIdx) (i : BitVec 16) (e : Word) (h : e.toNat = op.toNat * 2 ^ 26) :
    encodeImm16 op rd rj i &&& 0xfc000000#32 = e := by
  apply BitVec.eq_of_toNat_eq
  rw [toNat_and_6, encodeImm16_toNat, h]
  have := rd.isLt; have := rj.isLt; have := i.isLt
  omega

theorem fixed_imm20 (op : BitVec 7) (rd : RegIdx) (i : BitVec 20) (e : Word) (h : e.toNat = op.toNat * 2 ^ 25) :
    encodeImm20 op rd i &&& 0xfe000000#32 = e := by
  apply BitVec.eq_of_toNat_eq
  rw [toNat_and_7, encodeImm20_toNat, h]
  have := rd.isLt; have := i.isLt
  omega

theorem fixed_imm26 (op : BitVec 6) (i : BitVec 26) (e : Word) (h : e.toNat = op.toNat * 2 ^ 26) :
    encodeImm26 op i &&& 0xfc000000#32 = e := by
  apply BitVec.eq_of_toNat_eq
  rw [toNat_and_6, encodeImm26_toNat, h]
  have := i.isLt
  omega

theorem fixed_hint15 (op : BitVec 17) (k : BitVec 15) (e : Word) (h : e.toNat = op.toNat * 2 ^ 15) :
    encodeHint15 op k &&& 0xffff8000#32 = e := by
  apply BitVec.eq_of_toNat_eq
  rw [toNat_and_17, encodeHint15_toNat, h]
  have := k.isLt
  omega

theorem FixedBits.addW (rd rj rk : RegIdx) : FixedBits.Statement (.addW rd rj rk) := fixed_regReg _ _ _ _ _ rfl
theorem FixedBits.subW (rd rj rk : RegIdx) : FixedBits.Statement (.subW rd rj rk) := fixed_regReg _ _ _ _ _ rfl
theorem FixedBits.divW (rd rj rk : RegIdx) : FixedBits.Statement (.divW rd rj rk) := fixed_regReg _ _ _ _ _ rfl
theorem FixedBits.modW (rd rj rk : RegIdx) : FixedBits.Statement (.modW rd rj rk) := fixed_regReg _ _ _ _ _ rfl
theorem FixedBits.divWu (rd rj rk : RegIdx) : FixedBits.Statement (.divWu rd rj rk) := fixed_regReg _ _ _ _ _ rfl
theorem FixedBits.modWu (rd rj rk : RegIdx) : FixedBits.Statement (.modWu rd rj rk) := fixed_regReg _ _ _ _ _ rfl
theorem FixedBits.or (rd rj rk : RegIdx) : FixedBits.Statement (.or rd rj rk) := fixed_regReg _ _ _ _ _ rfl
theorem FixedBits.and (rd rj rk : RegIdx) : FixedBits.Statement (.and rd rj rk) := fixed_regReg _ _ _ _ _ rfl
theorem FixedBits.xor (rd rj rk : RegIdx) : FixedBits.Statement (.xor rd rj rk) := fixed_regReg _ _ _ _ _ rfl
theorem FixedBits.nor (rd rj rk : RegIdx) : FixedBits.Statement (.nor rd rj rk) := fixed_regReg _ _ _ _ _ rfl
theorem FixedBits.ori (rd rj : RegIdx) (ui12 : BitVec 12) : FixedBits.Statement (.ori rd rj ui12) := fixed_imm12 _ _ _ _ _ rfl
theorem FixedBits.andi (rd rj : RegIdx) (ui12 : BitVec 12) : FixedBits.Statement (.andi rd rj ui12) := fixed_imm12 _ _ _ _ _ rfl
theorem FixedBits.xori (rd rj : RegIdx) (ui12 : BitVec 12) : FixedBits.Statement (.xori rd rj ui12) := fixed_imm12 _ _ _ _ _ rfl
theorem FixedBits.addiW (rd rj : RegIdx) (si12 : BitVec 12) : FixedBits.Statement (.addiW rd rj si12) := fixed_imm12 _ _ _ _ _ rfl
theorem FixedBits.slt (rd rj rk : RegIdx) : FixedBits.Statement (.slt rd rj rk) := fixed_regReg _ _ _ _ _ rfl
theorem FixedBits.sltu (rd rj rk : RegIdx) : FixedBits.Statement (.sltu rd rj rk) := fixed_regReg _ _ _ _ _ rfl
theorem FixedBits.sllW (rd rj rk : RegIdx) : FixedBits.Statement (.sllW rd rj rk) := fixed_regReg _ _ _ _ _ rfl
theorem FixedBits.srlW (rd rj rk : RegIdx) : FixedBits.Statement (.srlW rd rj rk) := fixed_regReg _ _ _ _ _ rfl
theorem FixedBits.sraW (rd rj rk : RegIdx) : FixedBits.Statement (.sraW rd rj rk) := fixed_regReg _ _ _ _ _ rfl
theorem FixedBits.slliW (rd rj : RegIdx) (ui5 : BitVec 5) : FixedBits.Statement (.slliW rd rj ui5) := fixed_regReg _ _ _ _ _ rfl
theorem FixedBits.srliW (rd rj : RegIdx) (ui5 : BitVec 5) : FixedBits.Statement (.srliW rd rj ui5) := fixed_regReg _ _ _ _ _ rfl
theorem FixedBits.sraiW (rd rj : RegIdx) (ui5 : BitVec 5) : FixedBits.Statement (.sraiW rd rj ui5) := fixed_regReg _ _ _ _ _ rfl
theorem FixedBits.mulW (rd rj rk : RegIdx) : FixedBits.Statement (.mulW rd rj rk) := fixed_regReg _ _ _ _ _ rfl
theorem FixedBits.mulhW (rd rj rk : RegIdx) : FixedBits.Statement (.mulhW rd rj rk) := fixed_regReg _ _ _ _ _ rfl
theorem FixedBits.mulhWu (rd rj rk : RegIdx) : FixedBits.Statement (.mulhWu rd rj rk) := fixed_regReg _ _ _ _ _ rfl
theorem FixedBits.ldB (rd rj : RegIdx) (si12 : BitVec 12) : FixedBits.Statement (.ldB rd rj si12) := fixed_imm12 _ _ _ _ _ rfl
theorem FixedBits.ldH (rd rj : RegIdx) (si12 : BitVec 12) : FixedBits.Statement (.ldH rd rj si12) := fixed_imm12 _ _ _ _ _ rfl
theorem FixedBits.ldW (rd rj : RegIdx) (si12 : BitVec 12) : FixedBits.Statement (.ldW rd rj si12) := fixed_imm12 _ _ _ _ _ rfl
theorem FixedBits.ldBu (rd rj : RegIdx) (si12 : BitVec 12) : FixedBits.Statement (.ldBu rd rj si12) := fixed_imm12 _ _ _ _ _ rfl
theorem FixedBits.ldHu (rd rj : RegIdx) (si12 : BitVec 12) : FixedBits.Statement (.ldHu rd rj si12) := fixed_imm12 _ _ _ _ _ rfl
theorem FixedBits.stB (rd rj : RegIdx) (si12 : BitVec 12) : FixedBits.Statement (.stB rd rj si12) := fixed_imm12 _ _ _ _ _ rfl
theorem FixedBits.stH (rd rj : RegIdx) (si12 : BitVec 12) : FixedBits.Statement (.stH rd rj si12) := fixed_imm12 _ _ _ _ _ rfl
theorem FixedBits.stW (rd rj : RegIdx) (si12 : BitVec 12) : FixedBits.Statement (.stW rd rj si12) := fixed_imm12 _ _ _ _ _ rfl
theorem FixedBits.pcaddu12i (rd : RegIdx) (si20 : BitVec 20) : FixedBits.Statement (.pcaddu12i rd si20) := fixed_imm20 _ _ _ _ rfl
theorem FixedBits.lu12iW (rd : RegIdx) (si20 : BitVec 20) : FixedBits.Statement (.lu12iW rd si20) := fixed_imm20 _ _ _ _ rfl
theorem FixedBits.bl (offs26 : BitVec 26) : FixedBits.Statement (.bl offs26) := fixed_imm26 _ _ _ rfl
theorem FixedBits.b (offs26 : BitVec 26) : FixedBits.Statement (.b offs26) := fixed_imm26 _ _ _ rfl
theorem FixedBits.jirl (rd rj : RegIdx) (offs16 : BitVec 16) : FixedBits.Statement (.jirl rd rj offs16) := fixed_imm16 _ _ _ _ _ rfl
theorem FixedBits.beq (rj rd : RegIdx) (offs16 : BitVec 16) : FixedBits.Statement (.beq rj rd offs16) := fixed_imm16 _ _ _ _ _ rfl
theorem FixedBits.bne (rj rd : RegIdx) (offs16 : BitVec 16) : FixedBits.Statement (.bne rj rd offs16) := fixed_imm16 _ _ _ _ _ rfl
theorem FixedBits.blt (rj rd : RegIdx) (offs16 : BitVec 16) : FixedBits.Statement (.blt rj rd offs16) := fixed_imm16 _ _ _ _ _ rfl
theorem FixedBits.bge (rj rd : RegIdx) (offs16 : BitVec 16) : FixedBits.Statement (.bge rj rd offs16) := fixed_imm16 _ _ _ _ _ rfl
theorem FixedBits.bltu (rj rd : RegIdx) (offs16 : BitVec 16) : FixedBits.Statement (.bltu rj rd offs16) := fixed_imm16 _ _ _ _ _ rfl
theorem FixedBits.bgeu (rj rd : RegIdx) (offs16 : BitVec 16) : FixedBits.Statement (.bgeu rj rd offs16) := fixed_imm16 _ _ _ _ _ rfl
theorem FixedBits.dbar (hint : BitVec 15) : FixedBits.Statement (.dbar hint) := fixed_hint15 _ _ _ rfl
theorem FixedBits.ibar (hint : BitVec 15) : FixedBits.Statement (.ibar hint) := fixed_hint15 _ _ _ rfl
theorem FixedBits.slti (rd rj : RegIdx) (si12 : BitVec 12) : FixedBits.Statement (.slti rd rj si12) := fixed_imm12 _ _ _ _ _ rfl
theorem FixedBits.sltui (rd rj : RegIdx) (si12 : BitVec 12) : FixedBits.Statement (.sltui rd rj si12) := fixed_imm12 _ _ _ _ _ rfl
theorem FixedBits.brk (code : BitVec 15) : FixedBits.Statement (.brk code) := fixed_hint15 _ _ _ rfl
theorem FixedBits.inv (word : Word) : FixedBits.Statement (.inv word) := BitVec.and_zero

end Sys2Proof.Laws
end

