-- ==== Sys2Proof/Tests/Slice0.lean ====
section
/-! SUPPORT. Tests of this model: WellFormed, decoding, one step of every instruction (the vectors of
95_test_vectors.md, computed there from the spec's rules), and for every obligation with hypotheses a state and
operands that meet them. -/

namespace Sys2Proof.Tests

open Sys2Proof.Machine

/-! ## WellFormed -/

/-- The parameters with the second `or` template of V-DEC-8, whose pattern is the opcode of `orn`. -/
def withOrn (position : Nat) : Params :=
  { Params.standard with or2 := or2OfPattern "00000000000101100 ????? ????? ?????".toList position }

theorem test_wellFormed_accepts : (Instr.addW 1 2 3).wellFormed Params.standard = true
    ∧ (Instr.sltui 1 2 0xfff).wellFormed Params.allRows = true
    ∧ (Instr.inv 0x02000041).wellFormed Params.standard = true
    ∧ (Instr.or 1 2 3).wellFormed (withOrn 6) = true := by decide

/-- R72: the optional rows are not instructions of the default table. -/
theorem test_wellFormed_refuses_optional : (Instr.slti 1 2 3).wellFormed Params.standard = false
    ∧ (Instr.sltui 1 2 3).wellFormed Params.standard = false := by decide

/-- R70: the catch-all is not selected for a word of `add.w`, nor for one of `slti` where the row is present. -/
theorem test_wellFormed_refuses_claimed_invalid : (Instr.inv 0x00100c41).wellFormed Params.standard = false
    ∧ (Instr.inv 0x02000041).wellFormed Params.allRows = false := by decide

/-- R69: a word that the second `or` template takes stands for `or` alone. -/
theorem test_wellFormed_refuses_taken_by_or2 : (Instr.inv 0x00160c41).wellFormed (withOrn 6) = false
    ∧ (Instr.addW 1 2 3).wellFormed { Params.standard with or2 := some ⟨0xffff8000, 0x00100000, 0⟩ } = false
    ∧ (Instr.slti 1 2 3).wellFormed { Params.allRows with or2 := some ⟨0xffc00000, 0x02000000, 0⟩ } = false := by
  decide

/-! ## Decoding: words written field by field from the patterns of 30_encoding.md R66 and R72 -/

theorem test_decode_arith : ([
    (0b00000000000100000_00011_00010_00001, .addW 1 2 3),
    (0b00000000000100010_00011_00010_00001, .subW 1 2 3),
    (0b00000000001000000_00011_00010_00001, .divW 1 2 3),
    (0b00000000001000001_00011_00010_00001, .modW 1 2 3),
    (0b00000000001000010_00011_00010_00001, .divWu 1 2 3),
    (0b00000000001000011_00011_00010_00001, .modWu 1 2 3),
    (0b00000000000101010_00011_00010_00001, .or 1 2 3),
    (0b00000000000101001_00011_00010_00001, .and 1 2 3),
    (0b00000000000101011_00011_00010_00001, .xor 1 2 3),
    (0b00000000000101000_00011_00010_00001, .nor 1 2 3)
  ] : List (Nat × Instr)).all (fun c => decodeTableWord 32 c.1 == some c.2) = true := by decide

theorem test_decode_logic_shift : ([
    (0b0000001110_100000000110_00010_00001, .ori 1 2 0x806),
    (0b0000001101_100000000110_00010_00001, .andi 1 2 0x806),
    (0b0000001111_100000000110_00010_00001, .xori 1 2 0x806),
    (0b0000001010_100000000110_00010_00001, .addiW 1 2 0x806),
    (0b00000000000100100_00011_00010_00001, .slt 1 2 3),
    (0b00000000000100101_00011_00010_00001, .sltu 1 2 3),
    (0b00000000000101110_00011_00010_00001, .sllW 1 2 3),
    (0b00000000000101111_00011_00010_00001, .srlW 1 2 3),
    (0b00000000000110000_00011_00010_00001, .sraW 1 2 3),
    (0b00000000010000001_10011_00010_00001, .slliW 1 2 19),
    (0b00000000010001001_10011_00010_00001, .srliW 1 2 19),
    (0b00000000010010001_10011_00010_00001, .sraiW 1 2 19),
    (0b00000000000111000_00011_00010_00001, .mulW 1 2 3),
    (0b00000000000111001_00011_00010_00001, .mulhW 1 2 3),
    (0b00000000000111010_00011_00010_00001, .mulhWu 1 2 3)
  ] : List (Nat × Instr)).all (fun c => decodeTableWord 32 c.1 == some c.2) = true := by decide

theorem test_decode_memory : ([
    (0b0010100000_100000000110_00010_00001, .ldB 1 2 0x806),
    (0b0010100001_100000000110_00010_00001, .ldH 1 2 0x806),
    (0b0010100010_100000000110_00010_00001, .ldW 1 2 0x806),
    (0b0010101000_100000000110_00010_00001, .ldBu 1 2 0x806),
    (0b0010101001_100000000110_00010_00001, .ldHu 1 2 0x806),
    (0b0010100100_100000000110_00010_00001, .stB 1 2 0x806),
    (0b0010100101_100000000110_00010_00001, .stH 1 2 0x806),
    (0b0010100110_100000000110_00010_00001, .stW 1 2 0x806),
    (0b0001110_10000000000000000110_00001, .pcaddu12i 1 0x80006),
    (0b0001010_10000000000000000110_00001, .lu12iW 1 0x80006)
  ] : List (Nat × Instr)).all (fun c => decodeTableWord 32 c.1 == some c.2) = true := by decide

theorem test_decode_control : ([
    (0b010101_1000000000000110_0100000001, .bl 0x1018006),
    (0b010100_1000000000000110_0100000001, .b 0x1018006),
    (0b010011_1000000000000110_00010_00001, .jirl 1 2 0x8006),
    (0b010110_1000000000000110_00010_00001, .beq 2 1 0x8006),
    (0b010111_1000000000000110_00010_00001, .bne 2 1 0x8006),
    (0b011000_1000000000000110_00010_00001, .blt 2 1 0x8006),
    (0b011001_1000000000000110_00010_00001, .bge 2 1 0x8006),
    (0b011010_1000000000000110_00010_00001, .bltu 2 1 0x8006),
    (0b011011_1000000000000110_00010_00001, .bgeu 2 1 0x8006),
    (0b00111000011100100_100000000000110, .dbar 0x4006),
    (0b00111000011100101_100000000000110, .ibar 0x4006)
  ] : List (Nat × Instr)).all (fun c => decodeTableWord 32 c.1 == some c.2) = true := by decide

theorem test_decode_optional : ([
    (0b0000001000_100000000110_00010_00001, .slti 1 2 0x806),
    (0b0000001001_100000000110_00010_00001, .sltui 1 2 0x806)
  ] : List (Nat × Instr)).all (fun c => decodeTableWord 32 c.1 == some c.2) = true := by decide

theorem test_decode_break_invalid : ([
    (0b00000000001010100_100000000000110, .brk 0x4006),
    (0b00000000001010110_000000000000000, .inv 0x002b0000)
  ] : List (Nat × Instr)).all (fun c => decodeTableWord 32 c.1 == some c.2) = true := by decide

/-- V-DEC-1: an all-ones filling of the wildcards keeps the template. -/
theorem test_decode_ones : decodeTableWord 32 0x00107fff = some (.addW 31 31 31)
    ∧ decodeTableWord 32 0x57ffffff = some (.bl 0x3ffffff)
    ∧ decodeTableWord 32 0xffffffff = some (.inv 0xffffffff) := by decide

/-- V-DEC-2: pattern compilation, and patterns that are refused (R51, D28). -/
theorem test_compilePattern :
    compilePattern "00000000000100000 ????? ????? ?????".toList = some (0xffff8000, 0x00100000)
    ∧ compilePattern "010110 ???????????????? ????? ?????".toList = some (0xfc000000, 0x58000000)
    ∧ compilePattern "????????????????????????????????".toList = some (0, 0)
    ∧ compilePattern "???????????????????????????????".toList = none
    ∧ compilePattern "?????????????????????????????????".toList = none
    ∧ compilePattern "x???????????????????????????????".toList = none
    ∧ compilePattern "000000 \t\n??????????????????????????".toList = some (0xfc000000, 0) := by decide

/-- V-DEC-6: without `P_SLTI` the optional words are invalid. -/
theorem test_decode_without_slti : decodeWord Params.standard 0x02000041 = .inv 0x02000041
    ∧ decodeWord Params.standard 0x02400041 = .inv 0x02400041 := by decide

/-- V-DEC-8: the second `or` template takes the invalid words 0x00160000 to 0x00167fff. -/
theorem test_decode_or2 : decodeWord (withOrn 6) 0x00160c41 = .or 1 2 3
    ∧ decodeWord (withOrn 0) 0x00167fff = .or 31 31 31
    ∧ decodeWord (withOrn 6) 0x00100c41 = .addW 1 2 3 := by decide

/-- A fetch is of 4 bytes (R50): fewer hold no instruction, more are left over. -/
theorem test_decode_bytes : decode Params.standard [0x41, 0x0c, 0x10] = .error (.truncated 3)
    ∧ decode Params.standard [0x41, 0x0c, 0x10, 0x00, 0xaa] = .ok (.addW 1 2 3, [0xaa]) := by
  exact ⟨rfl, rfl⟩

/-! ## One step of every instruction -/

/-- The example memory of 95_test_vectors.md: 0x80000000 to 0x80001FFF, whatever the alignment. -/
def exampleParams : Params :=
  { Params.standard with memAdmits := .regions [⟨0x80000000, 0x2000, true, true, true⟩] }

/-- A running machine with the example memory's two words, the given registers, and an instruction at the pc. -/
def small (regs : List (RegIdx × Word)) (w : Word) : State :=
  let m : Memory := [(0x80001000, 0xF3), (0x80001001, 0xA2), (0x80001002, 0x91), (0x80001003, 0x80),
    (0x80001004, 0x78), (0x80001005, 0x56), (0x80001006, 0x34), (0x80001007, 0x12)]
  (regs.foldl (fun s r => s.setReg r.1 r.2)
    (State.boot 0x80000000 (Vector.replicate 32 0) m exampleParams)).withFetchWord 32 w.toNat

/-- The next step answers a next state of which `f` holds. -/
def after (s : State) (f : State → Bool) : Bool :=
  match step s with
  | .next t => f t
  | _       => false

/-- V-ALU-1: `add.w r1, r2, r3`. -/
theorem test_addW_1 :
    after (small [(2, 0x00000005), (3, 0x00000007)] 0x00100c41)
      (fun t => t.reg 1 == 0x0000000C && t.pc == 0x80000004) = true := by decide

/-- V-ALU-3: `add.w r1, r2, r3`. -/
theorem test_addW_2 :
    after (small [(2, 0xFFFFFFFF), (3, 0x00000001)] 0x00100c41)
      (fun t => t.reg 1 == 0x00000000 && t.pc == 0x80000004) = true := by decide

/-- V-ALU-6: `sub.w r1, r2, r3`. -/
theorem test_subW_1 :
    after (small [(2, 0x00000005), (3, 0x00000007)] 0x00110c41)
      (fun t => t.reg 1 == 0xFFFFFFFE && t.pc == 0x80000004) = true := by decide

/-- V-ALU-8: `sub.w r1, r0, r3`. -/
theorem test_subW_2 :
    after (small [(3, 0x80000000)] 0x00110c01)
      (fun t => t.reg 1 == 0x80000000 && t.pc == 0x80000004) = true := by decide

/-- V-MD-26: `div.w r1, r2, r3`. -/
theorem test_divW_1 :
    after (small [(1, 0x00000055), (2, 0xFFFFFFF9), (3, 0x00000002)] 0x00200c41)
      (fun t => t.reg 1 == 0xFFFFFFFD && t.pc == 0x80000004) = true := by decide

/-- V-MD-62: `div.w r1, r2, r3`. -/
theorem test_divW_2 :
    after (small [(1, 0x00000055), (2, 0x80000000), (3, 0xFFFFFFFF)] 0x00200c41)
      (fun t => t.status == .faulted (.divide 0x80000000) && t.pc == 0x80000000) = true := by decide

/-- V-MD-27: `mod.w r1, r2, r3`. -/
theorem test_modW_1 :
    after (small [(1, 0x00000055), (2, 0xFFFFFFF9), (3, 0x00000002)] 0x00208c41)
      (fun t => t.reg 1 == 0xFFFFFFFF && t.pc == 0x80000004) = true := by decide

/-- V-MD-67: `mod.w r1, r2, r3`. -/
theorem test_modW_2 :
    after (small [(1, 0x00000055), (2, 0x00000005), (3, 0x00000000)] 0x00208c41)
      (fun t => t.status == .faulted (.divide 0x80000000) && t.pc == 0x80000000) = true := by decide

/-- V-MD-28: `div.wu r1, r2, r3`. -/
theorem test_divWu_1 :
    after (small [(1, 0x00000055), (2, 0xFFFFFFF9), (3, 0x00000002)] 0x00210c41)
      (fun t => t.reg 1 == 0x7FFFFFFC && t.pc == 0x80000004) = true := by decide

/-- V-MD-68: `div.wu r1, r2, r3`. -/
theorem test_divWu_2 :
    after (small [(1, 0x00000055), (2, 0x00000005), (3, 0x00000000)] 0x00210c41)
      (fun t => t.status == .faulted (.divide 0x80000000) && t.pc == 0x80000000) = true := by decide

/-- V-MD-29: `mod.wu r1, r2, r3`. -/
theorem test_modWu_1 :
    after (small [(1, 0x00000055), (2, 0xFFFFFFF9), (3, 0x00000002)] 0x00218c41)
      (fun t => t.reg 1 == 0x00000001 && t.pc == 0x80000004) = true := by decide

/-- V-MD-65: `mod.wu r1, r2, r3`. -/
theorem test_modWu_2 :
    after (small [(1, 0x00000055), (2, 0x80000000), (3, 0xFFFFFFFF)] 0x00218c41)
      (fun t => t.reg 1 == 0x80000000 && t.pc == 0x80000004) = true := by decide

/-- V-ALU-10: `or r1, r2, r3`. -/
theorem test_or :
    after (small [(2, 0xF0F0FF00), (3, 0x0FF0F0F0)] 0x00150c41)
      (fun t => t.reg 1 == 0xFFF0FFF0 && t.pc == 0x80000004) = true := by decide

/-- V-ALU-9: `and r1, r2, r3`. -/
theorem test_and :
    after (small [(2, 0xF0F0FF00), (3, 0x0FF0F0F0)] 0x00148c41)
      (fun t => t.reg 1 == 0x00F0F000 && t.pc == 0x80000004) = true := by decide

/-- V-ALU-11: `xor r1, r2, r3`. -/
theorem test_xor :
    after (small [(2, 0xF0F0FF00), (3, 0x0FF0F0F0)] 0x00158c41)
      (fun t => t.reg 1 == 0xFF000FF0 && t.pc == 0x80000004) = true := by decide

/-- V-ALU-12: `nor r1, r2, r3`. -/
theorem test_nor :
    after (small [(2, 0xF0F0FF00), (3, 0x0FF0F0F0)] 0x00140c41)
      (fun t => t.reg 1 == 0x000F000F && t.pc == 0x80000004) = true := by decide

/-- V-ALU-20: `ori r1, r2, 0xfff`. -/
theorem test_ori_1 :
    after (small [(2, 0x12340000)] 0x03bffc41)
      (fun t => t.reg 1 == 0x12340FFF && t.pc == 0x80000004) = true := by decide

/-- V-ALU-22: `ori r1, r2, 0x800`. -/
theorem test_ori_2 :
    after (small [(2, 0x00000000)] 0x03a00041)
      (fun t => t.reg 1 == 0x00000800 && t.pc == 0x80000004) = true := by decide

/-- V-ALU-19: `andi r1, r2, 0xfff`. -/
theorem test_andi :
    after (small [(2, 0xDEADBEEF)] 0x037ffc41)
      (fun t => t.reg 1 == 0x00000EEF && t.pc == 0x80000004) = true := by decide

/-- V-ALU-21: `xori r1, r2, 0xfff`. -/
theorem test_xori :
    after (small [(2, 0xFFFFFFFF)] 0x03fffc41)
      (fun t => t.reg 1 == 0xFFFFF000 && t.pc == 0x80000004) = true := by decide

/-- V-ALU-15: `addi.w r1, r2, -1`. -/
theorem test_addiW_1 :
    after (small [(2, 0x00000000)] 0x02bffc41)
      (fun t => t.reg 1 == 0xFFFFFFFF && t.pc == 0x80000004) = true := by decide

/-- V-ALU-17: `addi.w r1, r2, -2048`. -/
theorem test_addiW_2 :
    after (small [(2, 0x00000800)] 0x02a00041)
      (fun t => t.reg 1 == 0x00000000 && t.pc == 0x80000004) = true := by decide

/-- V-ALU-24: `slt r1, r2, r3`. -/
theorem test_slt_1 :
    after (small [(2, 0xFFFFFFFF), (3, 0x00000001)] 0x00120c41)
      (fun t => t.reg 1 == 0x00000001 && t.pc == 0x80000004) = true := by decide

/-- V-ALU-27: `slt r1, r2, r3`. -/
theorem test_slt_2 :
    after (small [(2, 0x80000000), (3, 0x7FFFFFFF)] 0x00120c41)
      (fun t => t.reg 1 == 0x00000001 && t.pc == 0x80000004) = true := by decide

/-- V-ALU-28: `sltu r1, r2, r3`. -/
theorem test_sltu_1 :
    after (small [(1, 0x00000009), (2, 0xFFFFFFFF), (3, 0x00000001)] 0x00128c41)
      (fun t => t.reg 1 == 0x00000000 && t.pc == 0x80000004) = true := by decide

/-- V-ALU-29: `sltu r1, r2, r3`. -/
theorem test_sltu_2 :
    after (small [(2, 0x00000001), (3, 0xFFFFFFFF)] 0x00128c41)
      (fun t => t.reg 1 == 0x00000001 && t.pc == 0x80000004) = true := by decide

/-- V-SH-26: `sll.w r3, r3, r3`. -/
theorem test_sllW_1 :
    after (small [(3, 0x00000003)] 0x00170c63)
      (fun t => t.reg 3 == 0x00000018 && t.pc == 0x80000004) = true := by decide

/-- V-SH-6: `sll.w r1, r2, r3`. -/
theorem test_sllW_2 :
    after (small [(1, 0x00000055), (2, 0x80000001), (3, 0x00000021)] 0x00170c41)
      (fun t => t.reg 1 == 0x00000002 && t.pc == 0x80000004) = true := by decide

/-- V-SH-8: `srl.w r1, r2, r3`. -/
theorem test_srlW_1 :
    after (small [(2, 0x80000001), (3, 0x00000001)] 0x00178c41)
      (fun t => t.reg 1 == 0x40000000 && t.pc == 0x80000004) = true := by decide

/-- V-SH-10: `srl.w r1, r2, r3`. -/
theorem test_srlW_2 :
    after (small [(2, 0x80000001), (3, 0x00000021)] 0x00178c41)
      (fun t => t.reg 1 == 0x40000000 && t.pc == 0x80000004) = true := by decide

/-- V-SH-12: `sra.w r1, r2, r3`. -/
theorem test_sraW_1 :
    after (small [(1, 0x00000055), (2, 0x80000001), (3, 0x0000001F)] 0x00180c41)
      (fun t => t.reg 1 == 0xFFFFFFFF && t.pc == 0x80000004) = true := by decide

/-- V-SH-14: `sra.w r1, r2, r3`. -/
theorem test_sraW_2 :
    after (small [(2, 0x7FFFFFFF), (3, 0x0000001F)] 0x00180c41)
      (fun t => t.reg 1 == 0x00000000 && t.pc == 0x80000004) = true := by decide

/-- V-SH-17: `slli.w r1, r2, 15`. -/
theorem test_slliW_1 :
    after (small [(1, 0x00000055), (2, 0x80000001)] 0x0040bc41)
      (fun t => t.reg 1 == 0x00008000 && t.pc == 0x80000004) = true := by decide

/-- V-SH-18: `slli.w r1, r2, 16`. -/
theorem test_slliW_2 :
    after (small [(1, 0x00000055), (2, 0x80000001)] 0x0040c041)
      (fun t => t.reg 1 == 0x00010000 && t.pc == 0x80000004) = true := by decide

/-- V-SH-20: `srli.w r1, r2, 1`. -/
theorem test_srliW_1 :
    after (small [(2, 0x80000001)] 0x00448441)
      (fun t => t.reg 1 == 0x40000000 && t.pc == 0x80000004) = true := by decide

/-- V-SH-21: `srli.w r1, r2, 16`. -/
theorem test_srliW_2 :
    after (small [(2, 0x80000001)] 0x0044c041)
      (fun t => t.reg 1 == 0x00008000 && t.pc == 0x80000004) = true := by decide

/-- V-SH-23: `srai.w r1, r2, 1`. -/
theorem test_sraiW_1 :
    after (small [(2, 0x80000001)] 0x00488441)
      (fun t => t.reg 1 == 0xC0000000 && t.pc == 0x80000004) = true := by decide

/-- V-SH-24: `srai.w r1, r2, 16`. -/
theorem test_sraiW_2 :
    after (small [(2, 0x80000001)] 0x0048c041)
      (fun t => t.reg 1 == 0xFFFF8000 && t.pc == 0x80000004) = true := by decide

/-- V-MD-16: `mul.w r1, r2, r3`. -/
theorem test_mulW_1 :
    after (small [(1, 0x00000055), (2, 0x12345678), (3, 0x9ABCDEF0)] 0x001c0c41)
      (fun t => t.reg 1 == 0x242D2080 && t.pc == 0x80000004) = true := by decide

/-- V-MD-10: `mul.w r1, r2, r3`. -/
theorem test_mulW_2 :
    after (small [(1, 0x00000055), (2, 0x80000000), (3, 0xFFFFFFFF)] 0x001c0c41)
      (fun t => t.reg 1 == 0x80000000 && t.pc == 0x80000004) = true := by decide

/-- V-MD-17: `mulh.w r1, r2, r3`. -/
theorem test_mulhW_1 :
    after (small [(1, 0x00000055), (2, 0x12345678), (3, 0x9ABCDEF0)] 0x001c8c41)
      (fun t => t.reg 1 == 0xF8CC93D6 && t.pc == 0x80000004) = true := by decide

/-- V-MD-20: `mulh.w r1, r2, r3`. -/
theorem test_mulhW_2 :
    after (small [(1, 0x00000055), (2, 0xFFFFFFFF), (3, 0x00000002)] 0x001c8c41)
      (fun t => t.reg 1 == 0xFFFFFFFF && t.pc == 0x80000004) = true := by decide

/-- V-MD-18: `mulh.wu r1, r2, r3`. -/
theorem test_mulhWu_1 :
    after (small [(1, 0x00000055), (2, 0x12345678), (3, 0x9ABCDEF0)] 0x001d0c41)
      (fun t => t.reg 1 == 0x0B00EA4E && t.pc == 0x80000004) = true := by decide

/-- V-MD-12: `mulh.wu r1, r2, r3`. -/
theorem test_mulhWu_2 :
    after (small [(1, 0x00000055), (2, 0x80000000), (3, 0xFFFFFFFF)] 0x001d0c41)
      (fun t => t.reg 1 == 0x7FFFFFFF && t.pc == 0x80000004) = true := by decide

/-- V-LS-1: `ld.b r1, r2, 0`. -/
theorem test_ldB :
    after (small [(1, 0x00000055), (2, 0x80001000)] 0x28000041)
      (fun t => t.reg 1 == 0xFFFFFFF3 && t.pc == 0x80000004) = true := by decide

/-- V-LS-19: `ld.w r1, r2, 0`. -/
theorem test_ldW_1 :
    after (small [(1, 0x00000055), (2, 0x00000010)] 0x28800041)
      (fun t => t.status == .faulted (.memory 0x10 .word .load)) = true := by decide

/-- V-LS-12: `ld.w r1, r2, -4`. -/
theorem test_ldW_2 :
    after (small [(2, 0x80001008)] 0x28bff041)
      (fun t => t.reg 1 == 0x12345678 && t.pc == 0x80000004) = true := by decide

/-- V-LS-7: `ld.h r1, r2, 2`. -/
theorem test_ldH_1 :
    after (small [(1, 0x00000055), (2, 0x80001000)] 0x28400841)
      (fun t => t.reg 1 == 0xFFFF8091 && t.pc == 0x80000004) = true := by decide

/-- V-LS-6: `ld.h r1, r2, 0`. -/
theorem test_ldH_2 :
    after (small [(1, 0x00000055), (2, 0x80001000)] 0x28400041)
      (fun t => t.reg 1 == 0xFFFFA2F3 && t.pc == 0x80000004) = true := by decide

/-- V-LS-5: `ld.bu r1, r2, 3`. -/
theorem test_ldBu_1 :
    after (small [(1, 0x00000055), (2, 0x80001000)] 0x2a000c41)
      (fun t => t.reg 1 == 0x00000080 && t.pc == 0x80000004) = true := by decide

/-- V-LS-4: `ld.bu r1, r2, 0`. -/
theorem test_ldBu_2 :
    after (small [(1, 0x00000055), (2, 0x80001000)] 0x2a000041)
      (fun t => t.reg 1 == 0x000000F3 && t.pc == 0x80000004) = true := by decide

/-- V-LS-9: `ld.hu r1, r2, 2`. -/
theorem test_ldHu_1 :
    after (small [(1, 0x00000055), (2, 0x80001000)] 0x2a400841)
      (fun t => t.reg 1 == 0x00008091 && t.pc == 0x80000004) = true := by decide

/-- V-LS-17: `ld.hu r1, r2, 1`. -/
theorem test_ldHu_2 :
    after (small [(2, 0x80001000)] 0x2a400441)
      (fun t => t.reg 1 == 0x000091A2 && t.pc == 0x80000004) = true := by decide

/-- V-LS-20: `st.b r1, r2, 3`. -/
theorem test_stB_1 :
    after (small [(1, 0x123456FF), (2, 0x80001000)] 0x29000c41)
      (fun t => memRead t.mem 0x80001003 == some 0xFF && t.pc == 0x80000004) = true := by decide

/-- V-LS-25: `st.b r1, r2, 0`. -/
theorem test_stB_2 :
    after (small [(1, 0x000000FF), (2, 0x00000010)] 0x29000041)
      (fun t => t.status == .faulted (.memory 0x10 .byte .store)) = true := by decide

/-- V-LS-21: `st.h r1, r2, 2`. -/
theorem test_stH :
    after (small [(1, 0xABCD4321), (2, 0x80001000)] 0x29400841)
      (fun t => memRead t.mem 0x80001002 == some 0x21 && memRead t.mem 0x80001003 == some 0x43 && t.pc == 0x80000004) = true := by decide

/-- V-LS-24: `st.w r2, r2, -4`. -/
theorem test_stW_1 :
    after (small [(2, 0x80001004)] 0x29bff042)
      (fun t => memRead t.mem 0x80001000 == some 0x04 && memRead t.mem 0x80001001 == some 0x10 && memRead t.mem 0x80001002 == some 0x00 && memRead t.mem 0x80001003 == some 0x80 && t.pc == 0x80000004) = true := by decide

/-- V-LS-22: `st.w r1, r2, 0`. -/
theorem test_stW_2 :
    after (small [(1, 0x0A0B0C0D), (2, 0x80001000)] 0x29800041)
      (fun t => memRead t.mem 0x80001000 == some 0x0D && memRead t.mem 0x80001001 == some 0x0C && memRead t.mem 0x80001002 == some 0x0B && memRead t.mem 0x80001003 == some 0x0A && t.pc == 0x80000004) = true := by decide

/-- V-ALU-35: `pcaddu12i r1, 0xfffff`. -/
theorem test_pcaddu12i :
    after (small [] 0x1dffffe1)
      (fun t => t.reg 1 == 0x7FFFF000 && t.pc == 0x80000004) = true := by decide

/-- V-ALU-31: `lu12i.w r1, 0x12345`. -/
theorem test_lu12iW_1 :
    after (small [(1, 0xFFFFFFFF)] 0x142468a1)
      (fun t => t.reg 1 == 0x12345000 && t.pc == 0x80000004) = true := by decide

/-- V-ALU-32: `lu12i.w r1, 0x80000`. -/
theorem test_lu12iW_2 :
    after (small [] 0x15000001)
      (fun t => t.reg 1 == 0x80000000 && t.pc == 0x80000004) = true := by decide

/-- V-BR-28: `bl 0x20`. -/
theorem test_bl_1 :
    after (small [(1, 0x00000055)] 0x54002000)
      (fun t => t.reg 1 == 0x80000004 && t.pc == 0x80000020) = true := by decide

/-- V-BR-29: `bl -0x10`. -/
theorem test_bl_2 :
    after (small [] 0x57fff3ff)
      (fun t => t.reg 1 == 0x80000004 && t.pc == 0x7FFFFFF0) = true := by decide

/-- V-BR-25: `b 0x100000`. -/
theorem test_b_1 :
    after (small [] 0x50000004)
      (fun t => t.pc == 0x80100000) = true := by decide

/-- V-BR-27: `b -134217728`. -/
theorem test_b_2 :
    after (small [] 0x50000200)
      (fun t => t.pc == 0x78000000) = true := by decide

/-- V-BR-33: `jirl r1, r1, 8`. -/
theorem test_jirl_1 :
    after (small [(1, 0x80003000)] 0x4c000821)
      (fun t => t.reg 1 == 0x80000004 && t.pc == 0x80003008) = true := by decide

/-- V-BR-34: `jirl r4, r5, 0`. -/
theorem test_jirl_2 :
    after (small [(5, 0x80002002)] 0x4c0000a4)
      (fun t => t.reg 4 == 0x80000004 && t.pc == 0x80002002) = true := by decide

/-- V-BR-1: `beq r2, r3, 16`. -/
theorem test_beq_1 :
    after (small [(2, 0x00000005), (3, 0x00000005)] 0x58001043)
      (fun t => t.pc == 0x80000010) = true := by decide

/-- V-BR-2: `beq r2, r3, 16`. -/
theorem test_beq_2 :
    after (small [(2, 0xFFFFFFFF), (3, 0x00000001)] 0x58001043)
      (fun t => t.pc == 0x80000004) = true := by decide

/-- V-BR-5: `bne r2, r3, 16`. -/
theorem test_bne_1 :
    after (small [(2, 0xFFFFFFFF), (3, 0x00000001)] 0x5c001043)
      (fun t => t.pc == 0x80000010) = true := by decide

/-- V-BR-4: `bne r2, r3, 16`. -/
theorem test_bne_2 :
    after (small [(2, 0x00000005), (3, 0x00000005)] 0x5c001043)
      (fun t => t.pc == 0x80000004) = true := by decide

/-- V-BR-8: `blt r2, r3, 16`. -/
theorem test_blt_1 :
    after (small [(2, 0xFFFFFFFF), (3, 0x00000001)] 0x60001043)
      (fun t => t.pc == 0x80000010) = true := by decide

/-- V-BR-7: `blt r2, r3, 16`. -/
theorem test_blt_2 :
    after (small [(2, 0x00000005), (3, 0x00000005)] 0x60001043)
      (fun t => t.pc == 0x80000004) = true := by decide

/-- V-BR-12: `bge r2, r3, 16`. -/
theorem test_bge_1 :
    after (small [(2, 0x00000001), (3, 0xFFFFFFFF)] 0x64001043)
      (fun t => t.pc == 0x80000010) = true := by decide

/-- V-BR-11: `bge r2, r3, 16`. -/
theorem test_bge_2 :
    after (small [(2, 0xFFFFFFFF), (3, 0x00000001)] 0x64001043)
      (fun t => t.pc == 0x80000004) = true := by decide

/-- V-BR-15: `bltu r2, r3, 16`. -/
theorem test_bltu_1 :
    after (small [(2, 0x00000001), (3, 0xFFFFFFFF)] 0x68001043)
      (fun t => t.pc == 0x80000010) = true := by decide

/-- V-BR-14: `bltu r2, r3, 16`. -/
theorem test_bltu_2 :
    after (small [(2, 0xFFFFFFFF), (3, 0x00000001)] 0x68001043)
      (fun t => t.pc == 0x80000004) = true := by decide

/-- V-BR-17: `bgeu r2, r3, 16`. -/
theorem test_bgeu_1 :
    after (small [(2, 0xFFFFFFFF), (3, 0x00000001)] 0x6c001043)
      (fun t => t.pc == 0x80000010) = true := by decide

/-- V-BR-18: `bgeu r2, r3, 16`. -/
theorem test_bgeu_2 :
    after (small [(2, 0x00000001), (3, 0xFFFFFFFF)] 0x6c001043)
      (fun t => t.pc == 0x80000004) = true := by decide

/-- V-SYS-2: `dbar 0x7fff`. -/
theorem test_dbar :
    after (small [] 0x38727fff)
      (fun t => t.pc == 0x80000004) = true := by decide

/-- V-SYS-3: `ibar 0`. -/
theorem test_ibar :
    after (small [] 0x38728000)
      (fun t => t.pc == 0x80000004) = true := by decide

/-- V-SYS-5: `break 0x7fff`. -/
theorem test_brk :
    after (small [(4, 0x00000001)] 0x002a7fff)
      (fun t => t.status == .exited 0x80000000 0x00000001) = true := by decide

/-- V-SYS-7: `.word`. -/
theorem test_inv_1 :
    after (small [] 0xffffffff)
      (fun t => t.status == .aborted 0x80000000) = true := by decide

/-- V-SYS-9: `.word`. -/
theorem test_inv_2 :
    after (small [] 0x002b0000)
      (fun t => t.status == .aborted 0x80000000) = true := by decide

/-- V-ALU-38: `slti r1, r2, -1`. -/
theorem test_slti :
    after (small [(2, 0xFFFFFFFE)] 0x023ffc41)
      (fun t => t.reg 1 == 0x00000001 && t.pc == 0x80000004) = true := by decide

/-- V-ALU-39: `sltui r1, r2, -1`. -/
theorem test_sltui :
    after (small [(2, 0x00000005)] 0x027ffc41)
      (fun t => t.reg 1 == 0x00000001 && t.pc == 0x80000004) = true := by decide

/-! ## Other steps -/

/-- A reset machine with parameters of the test's choice. -/
def resetWith (p : Params) : State := { State.reset with params := p }

/-- The overflow pair in registers 2 and 3. -/
def overflowState (p : Params) : State := ((resetWith p).setReg 2 0x80000000).setReg 3 0xFFFFFFFF

/-- R92, R19: after `break` the run is over and no step is taken. -/
theorem test_run_ends : Host.Core.run Sys2Proof.core 2 (small [(4, 3)] 0x002a0000)
    = .fault (.notRunning (.exited 0x80000000 3)) := by rfl

/-- R81: from reset, with nothing loaded, the first fetch is refused and the run is over (log entry 11). -/
theorem test_reset_fetch : after State.reset (fun t =>
    t.status == .faulted (.memory 0x80000000 .word .fetch) && t.pc == 0x80000000) = true := by decide

/-- R138: under `draw` the destination is the next free value, the counter advances, the step completes. -/
theorem test_div_draw : exec (.divWu 1 2 3) (resetWith { Params.standard with div0 := .draw })
    = .next { (resetWith { Params.standard with div0 := .draw }).writeBack 1 (Config.draw 0) with draws := 1 } := rfl

/-- R138 (b): V-MD-62 under `wrap`. -/
theorem test_div_wrap : exec (.divW 1 2 3) (overflowState { Params.standard with divOvf := .wrap })
    = .next ((overflowState { Params.standard with divOvf := .wrap }).writeBack 1 0x80000000) := rfl

/-- R120: under `refuse` an immediate shift by 16 has no meaning. -/
theorem test_shift_refuse :
    exec (.slliW 1 2 16) (resetWith { Params.standard with shiftImmHi := .refuse })
      = .refused (.shiftImmHi 16) := rfl

/-! ## Hypotheses of the obligations: for each, a state and operands that meet them -/

theorem witness_DecodeOfEncodeIsIdentity : (Instr.or 1 2 3).wellFormed (withOrn 6) = true
    ∧ (Instr.sltui 31 0 0x800).wellFormed Params.allRows = true ∧ (Instr.inv 0).wellFormed Params.standard = true := by
  decide

theorem witness_EncodeOfDecodeIsIdentity : Params.standard.or2 = none := rfl

theorem witness_FirstMatchingTemplateWins :
    (templateTable Params.standard)[1]? = some ⟨0xffff8000, 0x00110000, .regReg .subW⟩
    ∧ (0x00110c41 : Word) &&& 0xffff8000 = 0x00110000
    ∧ ∀ (j : Nat) (u : Template), j < 1 → (templateTable Params.standard)[j]? = some u →
        (0x00110c41 : Word) &&& u.mask ≠ u.expected := by
  refine ⟨rfl, by decide, fun j u hj hu => ?_⟩
  obtain rfl : j = 0 := by omega
  obtain rfl : ⟨0xffff8000, 0x00100000, .regReg .addW⟩ = u := Option.some.inj hu
  decide

/-- The pattern of `add.w` without its blanks (R66). -/
def addWPattern : List Char :=
  List.replicate 11 '0' ++ '1' :: List.replicate 5 '0' ++ List.replicate 15 '?'

theorem witness_PatternCompilation :
    addWPattern.length = 32 ∧ ∀ c ∈ addWPattern, c = '0' ∨ c = '1' ∨ c = '?' :=
  ⟨rfl, fun c hc => of_decide_eq_true (List.all_eq_true.mp (show
    addWPattern.all (fun c => decide (c = '0' ∨ c = '1' ∨ c = '?')) = true by decide) c hc)⟩

/-- The clauses with hypotheses: a pattern with another character, one of 31 symbols. -/
theorem witness_MalformedPatternsAreRefused :
    (∃ c ∈ 'x' :: addWPattern, c ≠ '0' ∧ c ≠ '1' ∧ c ≠ '?' ∧ c.isWhitespace = false)
    ∧ ((addWPattern.drop 1).filter fun c => !c.isWhitespace).length ≠ 32 :=
  ⟨⟨'x', List.mem_cons_self, by decide⟩, by decide⟩

theorem witness_TemplateOrderHasNoEffect :
    Params.standard.or2 = none ∧ (specificTemplates Params.standard).reverse.Perm (specificTemplates Params.standard) :=
  ⟨rfl, List.reverse_perm _⟩

theorem witness_CatchAllRaisesInvalid : Params.standard.or2 = none
    ∧ decodeWord Params.standard 0x002b0000 = .inv 0x002b0000 := by decide

theorem witness_IllegalEncodingsAreInvalid : Params.allRows.or2 = none ∧ Params.allRows.pSlti = true
    ∧ decodeWord Params.allRows 0x002b0000 = .inv 0x002b0000 := by decide

/-- The three clauses: a word the template takes, one it does not match, one an earlier template takes. -/
theorem witness_SecondOrTemplate :
    ((0x00160000 : Word) &&& 0xffff8000 = 0x00160000
      ∧ ∀ t ∈ (templateTable Params.standard).take 6, t.hits 0x00160000 = false)
    ∧ (0x00100c41 : Word) &&& 0xffff8000 ≠ 0x00160000
    ∧ (∃ t ∈ (templateTable Params.standard).take 7, t.hits 0x00150c41 = true) := by
  refine ⟨⟨by decide, ?_⟩, by decide, ⟨⟨0xffff8000, 0x00150000, .regReg .or⟩, ?_, by decide⟩⟩
  · have h : ((templateTable Params.standard).take 6).all (fun t => !t.hits 0x00160000) = true := by decide
    intro t ht
    simpa using List.all_eq_true.mp h t ht
  · exact List.mem_of_getElem? (i := 6) rfl

theorem witness_IgnoredFieldsHaveNoEffect : Params.standard.or2 = none := rfl

/-- The words and (mask, match) pairs of the `Selects` clauses: each pair has a word of its own, in a table without a
second `or` template. -/
theorem witness_Selects : Params.standard.or2 = none
    ∧ specificRows.all (fun r => (r.2 ||| (0x5a5a5a5a &&& ~~~r.1)) &&& r.1 == r.2) = true := by decide

theorem witness_LogicImmediate :
    (0x00000800 : Word) = (if (State.reset).params.logicImmZext then (0x800#12).setWidth 32 else (0x800#12).signExtend 32)
    ∧ (0xFFFFF800 : Word) = (if (resetWith { Params.standard with logicImmZext := false }).params.logicImmZext
        then (0x800#12).setWidth 32 else (0x800#12).signExtend 32) := by decide

theorem witness_OptionalCompareImmediate : Params.allRows.or2 = none
    ∧ (0x023ffc41 : Word) &&& 0xffc00000 = 0x02000000 ∧ (0x027ffc41 : Word) &&& 0xffc00000 = 0x02400000 := by decide

theorem witness_DestinationZeroOnlyMovesPc : State.reset.reg 0 = 0 ∧ Instr.addW 0 2 3 ∈ [Instr.addW 0 2 3] := by
  decide

theorem witness_RegisterShifts : (1 : Nat) = ((State.reset.setReg 3 33).reg 3).toNat % 32 := by decide

theorem witness_ImmediateShifts : (State.reset.params.shiftImmHi = .mask ∨ (31#5).toNat < 16)
    ∧ ((resetWith { Params.standard with shiftImmHi := .refuse }).params.shiftImmHi = .mask ∨ (15#5).toNat < 16) := by
  decide

theorem witness_RefusalIsOfHighImmediateShiftsOnly :
    (resetWith { Params.standard with shiftImmHi := .refuse }).params.shiftImmHi = .refuse ∧ 16 ≤ (16#5).toNat
    ∧ exec (.sraiW 1 2 16) (resetWith { Params.standard with shiftImmHi := .refuse }) = .refused (.shiftImmHi 16) :=
  ⟨rfl, by decide, rfl⟩

theorem witness_Multiply : ∃ ps pu : BitVec 64,
    ps = ((small [(2, 0x80000000), (3, 0x80000000)] 0).reg 2).signExtend 64
        * ((small [(2, 0x80000000), (3, 0x80000000)] 0).reg 3).signExtend 64
    ∧ pu = ((small [(2, 0x80000000), (3, 0x80000000)] 0).reg 2).setWidth 64
        * ((small [(2, 0x80000000), (3, 0x80000000)] 0).reg 3).setWidth 64 := ⟨_, _, rfl, rfl⟩

/-- The most negative dividend with a divisor of 1, and a dividend of 1 with a divisor of -1. -/
theorem witness_SignedDivide :
    ((small [(2, 0x80000000), (3, 1)] 0).reg 3 ≠ 0
      ∧ ¬((small [(2, 0x80000000), (3, 1)] 0).reg 2 = 0x80000000 ∧ (small [(2, 0x80000000), (3, 1)] 0).reg 3 = 0xFFFFFFFF))
    ∧ ((small [(2, 1), (3, 0xFFFFFFFF)] 0).reg 3 ≠ 0
      ∧ ¬((small [(2, 1), (3, 0xFFFFFFFF)] 0).reg 2 = 0x80000000
        ∧ (small [(2, 1), (3, 0xFFFFFFFF)] 0).reg 3 = 0xFFFFFFFF)) := by decide

theorem witness_UnsignedDivide : (small [(3, 1)] 0).reg 3 ≠ 0 := by decide

/-- One state for each setting of `DIV0_POLICY`, and one for each setting of `DIVOVF_POLICY`. -/
theorem witness_DivisionWithoutValue :
    [Div0Policy.fault, .draw, .function].all (fun q =>
      let s := resetWith { Params.standard with div0 := q }
      s.reg 3 == 0 && s.params.div0 == q) = true
    ∧ [DivOvfPolicy.fault, .draw, .wrap].all (fun q =>
      let s := overflowState { Params.standard with divOvf := q }
      s.reg 2 == 0x80000000 && s.reg 3 == 0xFFFFFFFF && s.params.divOvf == q) = true := by decide

/-- The signed and the unsigned case. -/
theorem witness_QuotientAndRemainderRecombine :
    (small [(2, 0xFFFFFFF9), (3, 2)] 0).reg 3 ≠ 0
    ∧ ¬((small [(2, 0xFFFFFFF9), (3, 2)] 0).reg 2 = 0x80000000 ∧ (small [(2, 0xFFFFFFF9), (3, 2)] 0).reg 3 = 0xFFFFFFFF)
    ∧ (∃ tq tr, exec (.divW 1 2 3) (small [(2, 0xFFFFFFF9), (3, 2)] 0) = .next tq
        ∧ exec (.modW 1 2 3) (small [(2, 0xFFFFFFF9), (3, 2)] 0) = .next tr)
    ∧ (∃ tq tr, exec (.divWu 1 2 3) (small [(2, 0xFFFFFFF9), (3, 2)] 0) = .next tq
        ∧ exec (.modWu 1 2 3) (small [(2, 0xFFFFFFF9), (3, 2)] 0) = .next tr) :=
  ⟨by decide, by decide, ⟨_, _, rfl, rfl⟩, ⟨_, _, rfl, rfl⟩⟩

/-- Admitted at the last address of each width of the two loaded words, refused one byte further on and outside. -/
theorem witness_LoadValues :
    (0x80001007 : Word) = (small [(2, 0x80001000)] 0).reg 2 + (7#12).signExtend 32
    ∧ (small [(2, 0x80001000)] 0).admits 0x80001007 .byte .load = true
    ∧ (small [(2, 0x80001000)] 0).admits 0x80001006 .half .load = true
    ∧ (small [(2, 0x80001000)] 0).admits 0x80001004 .word .load = true
    ∧ (small [(2, 0x80001000)] 0).admits 0x80001008 .byte .load = false
    ∧ (small [(2, 0x80001000)] 0).admits 0x80001007 .half .load = false
    ∧ (small [(2, 0x80001000)] 0).admits 0x80001005 .word .load = false := by decide

/-- Admitted at the last address of each width of the region, refused one byte further on. -/
theorem witness_StoredBytes :
    (0x80001FFF : Word) = effectiveAddr (small [(2, 0x80002000)] 0) 2 0xFFF
    ∧ (small [(2, 0x80002000)] 0).admits 0x80001FFF .byte .store = true
    ∧ (small [(2, 0x80002000)] 0).admits 0x80001FFE .half .store = true
    ∧ (small [(2, 0x80002000)] 0).admits 0x80001FFC .word .store = true
    ∧ (small [(2, 0x80002000)] 0).admits 0x80002000 .byte .store = false
    ∧ (small [(2, 0x80002000)] 0).admits 0x80001FFF .half .store = false
    ∧ (small [(2, 0x80002000)] 0).admits 0x80001FFD .word .store = false := by decide

/-- The state after `st.w r1, r2, 0` of `small [(1, 0x12345678), (2, 0x80001000)] 0`. -/
def afterStore : State :=
  State.retire (State.store (small [(1, 0x12345678), (2, 0x80001000)] 0) 0x80001000 4 0x12345678) 0x80000004

/-- The word, the last byte and the last half of a stored word. -/
theorem witness_NarrowLoadsSeeStoredWord :
    exec (.stW 1 2 0) (small [(1, 0x12345678), (2, 0x80001000)] 0) = .next afterStore
    ∧ (0x80001000 : Word) = effectiveAddr (small [(1, 0x12345678), (2, 0x80001000)] 0) 2 0
    ∧ (0x12345678 : Word) = (small [(1, 0x12345678), (2, 0x80001000)] 0).reg 1
    ∧ (small [(1, 0x12345678), (2, 0x80001000)] 0).admits 0x80001000 .word .store = true
    ∧ effectiveAddr afterStore 2 0 = 0x80001000 ∧ afterStore.admits 0x80001000 .word .load = true
    ∧ effectiveAddr afterStore 2 3 = 0x80001000 + BitVec.ofNat 32 3
    ∧ afterStore.admits (0x80001000 + BitVec.ofNat 32 3) .byte .load = true
    ∧ effectiveAddr afterStore 2 2 = 0x80001000 + BitVec.ofNat 32 2
    ∧ afterStore.admits (0x80001000 + BitVec.ofNat 32 2) .half .load = true := ⟨rfl, by decide⟩

theorem witness_OnlyStoresChangeMemory :
    exec (.stW 1 2 0) (small [(1, 0x12345678), (2, 0x80001000)] 0) = .next afterStore
    ∧ memRead afterStore.mem 0x80001000 ≠ memRead (small [(1, 0x12345678), (2, 0x80001000)] 0).mem 0x80001000 :=
  ⟨rfl, by decide⟩

/-- A load and a store of a half at an odd address, and a fetch at an odd pc, of a memory that takes aligned requests
only. -/
theorem witness_AlignedMemoryRefusesUnaligned :
    (resetWith { Params.standard with alignedOnly := true }).params.alignedOnly = true
    ∧ (effectiveAddr (resetWith { Params.standard with alignedOnly := true }) 2 1).toNat % widthBytes .half ≠ 0
    ∧ loadForm (.ldHu 1 2 1) = some (2, 1, .half) ∧ storeForm (.stH 1 2 1) = some (2, 1, .half)
    ∧ (let s := (resetWith { Params.standard with alignedOnly := true }).retire 1;
        s.params.alignedOnly = true ∧ s.status = .running ∧ s.pc.toNat % 4 ≠ 0) := by decide

/-- A byte never written, under both settings of the parameter. -/
theorem witness_UnwrittenByteRead :
    (0 : Word) = effectiveAddr State.reset 2 0 ∧ memRead State.reset.mem 0 = none
    ∧ State.reset.params.unwritten = .rejected
    ∧ (0 : Word) = effectiveAddr (resetWith { Params.standard with unwritten := .anyValue }) 2 0
    ∧ memRead (resetWith { Params.standard with unwritten := .anyValue }).mem 0 = none
    ∧ (resetWith { Params.standard with unwritten := .anyValue }).params.unwritten = .anyValue
    ∧ (resetWith { Params.standard with unwritten := .anyValue }).params.memAdmits = .everything := by decide

theorem witness_ConditionalBranches :
    (0x7FFE0000 : Word) = State.reset.pc + BitVec.ofInt 32 ((0x8000#16).toInt * 4) := by decide

theorem witness_RelativeJumpAndCall :
    (0x78000000 : Word) = State.reset.pc + BitVec.ofInt 32 ((0x2000000#26).toInt * 4) := by decide

theorem witness_OnlyJirlMisalignsPc :
    exec (.b 2) State.reset = .next (State.reset.retire 0x80000008) ∧ State.reset.pc.toNat % 4 = 0
    ∧ ∀ rd rj offs, Instr.b 2 ≠ .jirl rd rj offs :=
  ⟨rfl, by decide, fun _ _ _ h => nomatch h⟩

theorem witness_NextPcIsSequentialOrTarget :
    exec (.beq 0 0 4) State.reset = .next (State.reset.retire 0x80000010) ∧ State.reset.status = .running
    ∧ (State.reset.retire 0x80000010).status = .running ∧ isControlTransfer (.dbar 0) = false
    ∧ exec (.dbar 0) State.reset = .next (State.reset.retire 0x80000004)
    ∧ Instr.beq 0 0 4 ∈ [Instr.beq 0 0 4, .bne 0 0 4] :=
  ⟨rfl, rfl, rfl, rfl, rfl, by decide⟩

theorem witness_StepRunsDecodedInstruction :
    (small [] 0x00100c41).status = .running
    ∧ (small [] 0x00100c41).admits (small [] 0x00100c41).pc .word .fetch = true
    ∧ decode (small [] 0x00100c41).params [byteOf (small [] 0x00100c41) (small [] 0x00100c41).pc 0,
        byteOf (small [] 0x00100c41) (small [] 0x00100c41).pc 1,
        byteOf (small [] 0x00100c41) (small [] 0x00100c41).pc 2,
        byteOf (small [] 0x00100c41) (small [] 0x00100c41).pc 3] = .ok (.addW 1 2 3, []) :=
  ⟨by decide, by decide, rfl⟩

theorem witness_RefusedFetchEndsRun :
    State.reset.status = .running ∧ State.reset.admits State.reset.pc .word .fetch = false := by decide

theorem witness_EndedRunTakesNoStep : Ended { State.reset with status := .aborted 0 } := by
  intro h
  cases h

/-- A step that completes, and one that ends in a fault. -/
theorem witness_RegisterZeroAfterEveryStep :
    after (small [] 0x00100c41) (fun t => t.status == .running) = true
    ∧ after State.reset (fun t => t.status == .faulted (.memory 0x80000000 .word .fetch)) = true := by decide

theorem witness_StepOutcomes : State.reset.status = .running := rfl

/-- One instruction for each of the five ways. -/
theorem witness_OnlyTheFourEventsEndARun : State.reset.status = .running
    ∧ [Instr.brk 0, .inv 0, .ldW 1 2 0, .divW 1 2 3].all (fun i =>
        match exec i State.reset with
        | .next t => t.status != .running
        | _ => false) = true
    ∧ (match exec (.stB 1 2 0) (small [] 0) with
        | .next t => t.status != .running
        | _ => false) = true := by decide

theorem witness_NextStepRunsStoredWord :
    (small [(1, 0x00100c41), (2, 0x80000000)] 0).status = .running
    ∧ effectiveAddr (small [(1, 0x00100c41), (2, 0x80000000)] 0) 2 4
        = (small [(1, 0x00100c41), (2, 0x80000000)] 0).pc + 4
    ∧ (small [(1, 0x00100c41), (2, 0x80000000)] 0).admits
        ((small [(1, 0x00100c41), (2, 0x80000000)] 0).pc + 4) .word .store = true
    ∧ (match exec (.stW 1 2 4) (small [(1, 0x00100c41), (2, 0x80000000)] 0) with
        | .next t => t.admits t.pc .word .fetch
        | _ => false) = true := by decide

theorem witness_ParametersAndDraws : after (small [] 0x00100c41) (fun _ => true) = true := by decide

/-- A completed instruction and a refused one that do not read register 5. -/
theorem witness_UnreadRegistersDoNotInterfere :
    (5 : RegIdx) ∉ readsOf State.reset.params (.jirl 1 2 0)
    ∧ exec (.dbar 0) State.reset = .next (State.reset.retire 0x80000004)
    ∧ (5 : RegIdx) ∉ readsOf (resetWith { Params.standard with shiftImmHi := .refuse }).params (.slliW 1 2 16)
    ∧ exec (.slliW 1 2 16) (resetWith { Params.standard with shiftImmHi := .refuse }) = .refused (.shiftImmHi 16) :=
  ⟨by decide, rfl, by decide, rfl⟩

theorem witness_StepKeepsInvariant :
    Inv (small [(1, 0x12345678), (2, 0x80001000)] 0x29800041)
    ∧ after (small [(1, 0x12345678), (2, 0x80001000)] 0x29800041) (fun t => t.status == .running) = true :=
  ⟨⟨by decide, by decide⟩, by decide⟩

theorem witness_ResetMeetsInvariant : Memory.wf [(0, 0), (0x80000000, 0xFF), (0xFFFFFFFF, 1)] = true
    ∧ Memory.wf [(1, 0), (0, 0)] = false := by decide

theorem witness_StartOfRun : (31 : RegIdx) ≠ 0 := by decide

theorem witness_FetchWordIsRunNext :
    State.reset.status = .running ∧ State.reset.params.or2 = none ∧ State.reset.params.memAdmits = .everything
    ∧ State.reset.params.alignedOnly = false ∧ decodeTableWord 32 0x023ffc41 = some (.slti 1 2 0xfff) := by decide

end Sys2Proof.Tests
end

section
/-! PROOFS. The memory frame (20_memory.md section 1, R31, R34): which instructions write memory, and where. -/

namespace Sys2Proof.Machine

/-! ## What each shared operation does to memory -/

@[simp] theorem loadInto_mem (s : State) (w : Width) (f : Word → Word) (rd : RegIdx) (ea : Word) :
    (s.loadInto w f rd ea).mem = s.mem := by
  obtain ⟨-, h⟩ | ⟨-, h⟩ := loadInto_cases s w f rd ea <;> simp [h]

@[simp] theorem branch_mem (s : State) (c : Bool) (imm : Word) : (s.branch c imm).mem = s.mem := rfl

@[simp] theorem divide_mem (s : State) (op : DivOp) (rd : RegIdx) (a b : Word) :
    (s.divide op rd a b).mem = s.mem := by
  obtain ⟨-, -, h⟩ | ⟨-, -, h⟩ | ⟨-, -, -, h⟩ | ⟨-, h⟩ | ⟨-, h⟩ := divide_cases s op rd a b <;> simp [h]

theorem shiftImm_next_mem {s t : State} {rd : RegIdx} {ui5 : BitVec 5} {v : Word}
    (h : s.shiftImm rd ui5 v = .next t) : t.mem = s.mem := by
  obtain ⟨-, hs⟩ | ⟨-, hs⟩ := shiftImm_cases s rd ui5 v
  · cases hs.symm.trans h
    exact writeBack_mem s rd v
  · cases hs.symm.trans h

/-- A store that completes writes only the bytes of its request (R34); one that faults writes none (R38). -/
theorem memRead_storeFrom_other (s : State) (w : Width) (ea v : Word) (a : Nat)
    (h : ∀ k, k < widthBytes w → a ≠ byteAddr ea k) :
    memRead (s.storeFrom w ea v).mem a = memRead s.mem a := by
  obtain ⟨-, hs⟩ | ⟨-, hs⟩ := storeFrom_cases s w ea v
  · rw [hs, retire_mem, store_mem, memRead_writeRaw_other s.mem ea _ v a h]
  · rw [hs, raiseEvent_mem]

/-! ## What each instruction does to memory -/

/-- The meaning of every store is `storeFrom` at the effective address of its form (44_loadstore.md R152 to R154). -/
theorem exec_of_storeForm {i : Instr} {rj : RegIdx} {si12 : BitVec 12} {w : Width} (s : State)
    (hi : storeForm i = some (rj, si12, w)) :
    ∃ rd, exec i s = .next (s.storeFrom w (effectiveAddr s rj si12) (s.reg rd)) := by
  cases i with
  | stB rd | stH rd | stW rd => cases hi; exact ⟨rd, rfl⟩
  | _ => cases hi

/-- An instruction that is no store leaves memory as it is, whether it completes or raises an event. -/
theorem exec_mem_of_storeForm_none {i : Instr} {s t : State} (hi : storeForm i = none)
    (h : exec i s = .next t) : t.mem = s.mem := by
  cases i with
  | stB | stH | stW => cases hi
  | ldB | ldH | ldW | ldBu | ldHu => cases h; exact loadInto_mem ..
  | divW | modW | divWu | modWu => cases h; exact divide_mem ..
  | slliW | srliW | sraiW => exact shiftImm_next_mem h
  | beq | bne | blt | bge | bltu | bgeu => cases h; exact branch_mem ..
  | brk | inv => cases h; exact raiseEvent_mem ..
  | b | bl | jirl | dbar | ibar => cases h; exact retire_mem ..
  | _ => cases h; exact writeBack_mem ..

/-! ## The obligation -/

/-- Settles O30, by the form of the instruction: no store, and memory is the same; a store, and only the bytes of its
request can differ. -/
theorem onlyStoresChangeMemory : Obligations.OnlyStoresChangeMemory := by
  unfold Obligations.OnlyStoresChangeMemory
  intro i s t a hexec hdiff
  cases hform : storeForm i with
  | none => exact absurd (congrArg (memRead · a) (exec_mem_of_storeForm_none hform hexec)) hdiff
  | some form =>
    obtain ⟨rj, si12, w⟩ := form
    obtain ⟨rd, hstore⟩ := exec_of_storeForm s hform
    cases hstore.symm.trans hexec
    refine ⟨rj, si12, w, rfl, ?_⟩
    by_contra hnone
    exact hdiff (memRead_storeFrom_other s w _ _ a fun k hk ha => hnone ⟨k, hk, ha⟩)

end Sys2Proof.Machine
end

section
/-! PROOFS. The scan of an ordered list of templates (30_encoding.md R53, R54): which template it selects. -/

namespace Sys2Proof

/-! ## One template -/

/-- The match predicate of R53. -/
theorem Template.hits_iff_and (t : Template) (w : Word) : t.hits w = true ↔ w &&& t.mask = t.expected := beq_iff_eq

/-- The (mask, match) of a template. -/
def Template.row (t : Template) : Word × Word := (t.mask, t.expected)

/-- Two rows demand different values of some bit that both of them fix. -/
def rowsDiffer (a b : Word × Word) : Bool := a.2 &&& b.1 != b.2 &&& a.1

theorem rowsDiffer_comm (a b : Word × Word) : rowsDiffer a b = rowsDiffer b a := bne_comm

/-- No word matches two templates whose rows differ. -/
theorem Template.not_hits_of_rowsDiffer {t u : Template} {w : Word} (hd : rowsDiffer t.row u.row = true)
    (ht : t.hits w = true) : u.hits w = false := by
  by_contra hu
  rw [Bool.not_eq_false, hits_iff_and] at hu
  rw [hits_iff_and] at ht
  have hsame : t.expected &&& u.mask = u.expected &&& t.mask := by
    rw [← ht, ← hu, BitVec.and_assoc, BitVec.and_assoc, BitVec.and_comm t.mask]
  simp [rowsDiffer, Template.row, hsame] at hd

/-! ## The scan -/

theorem firstMatch_cons_of_hits {t : Template} {w : Word} (ts : List Template) (h : t.hits w = true) :
    firstMatch (t :: ts) w = t.format.build w := if_pos h

theorem firstMatch_cons_of_miss {t : Template} {w : Word} (ts : List Template) (h : t.hits w = false) :
    firstMatch (t :: ts) w = firstMatch ts w := if_neg (Bool.eq_false_iff.mp h)

theorem firstMatch_of_all_miss {ts : List Template} {w : Word} (h : ∀ t ∈ ts, t.hits w = false) :
    firstMatch ts w = .inv w := by
  induction ts with
  | nil => rfl
  | cons t ts ih =>
    rw [firstMatch_cons_of_miss ts (h t List.mem_cons_self)]
    exact ih fun u hu => h u (List.mem_cons_of_mem t hu)

/-- The scan answers the instruction of a template that matches, or the catch-all's when none does. -/
theorem firstMatch_cases (ts : List Template) (w : Word) :
    (∃ t ∈ ts, t.hits w = true ∧ firstMatch ts w = t.format.build w)
      ∨ ((∀ t ∈ ts, t.hits w = false) ∧ firstMatch ts w = .inv w) := by
  by_cases hall : ∀ t ∈ ts, t.hits w = false
  · exact .inr ⟨hall, firstMatch_of_all_miss hall⟩
  · refine .inl ?_
    induction ts with
    | nil => exact absurd (fun t ht => absurd ht List.not_mem_nil) hall
    | cons t ts ih =>
      cases ht : t.hits w with
      | true => exact ⟨t, List.mem_cons_self, ht, firstMatch_cons_of_hits ts ht⟩
      | false =>
        obtain ⟨u, hu, hhit, heq⟩ := ih fun hts => hall (List.forall_mem_cons.mpr ⟨ht, hts⟩)
        exact ⟨u, List.mem_cons_of_mem t hu, hhit, (firstMatch_cons_of_miss ts ht).trans heq⟩

/-- R54: the template of least index that matches is the selected one. -/
theorem firstMatch_of_least_index {ts : List Template} {k : Nat} {t : Template} {w : Word}
    (hk : ts[k]? = some t) (ht : t.hits w = true)
    (hleast : ∀ (j : Nat) (u : Template), j < k → ts[j]? = some u → u.hits w = false) :
    firstMatch ts w = t.format.build w := by
  induction ts generalizing k with
  | nil => cases hk
  | cons u ts ih =>
    cases k with
    | zero => cases hk; exact firstMatch_cons_of_hits ts ht
    | succ k =>
      rw [firstMatch_cons_of_miss ts (hleast 0 u k.succ_pos rfl)]
      exact ih hk fun j v hj hv => hleast (j + 1) v (Nat.succ_lt_succ hj) hv

/-- Where the rows differ pairwise, any template that matches is the selected one. -/
theorem firstMatch_of_pairwise_differ {ts : List Template} {t : Template} {w : Word}
    (hd : ts.Pairwise fun t u => rowsDiffer t.row u.row = true) (hmem : t ∈ ts) (ht : t.hits w = true) :
    firstMatch ts w = t.format.build w := by
  induction hd with
  | nil => cases hmem
  | @cons u ts hu _ ih =>
    rcases List.mem_cons.mp hmem with rfl | hmem
    · exact firstMatch_cons_of_hits ts ht
    · have hdiff : rowsDiffer t.row u.row = true := rowsDiffer_comm _ _ ▸ hu t hmem
      rw [firstMatch_cons_of_miss ts (Template.not_hits_of_rowsDiffer hdiff ht)]
      exact ih hmem

/-- The catch-all at the end of a list answers what the scan answers at the end of the list (R55). -/
theorem firstMatch_append_catchAll (ts : List Template) (w : Word) :
    firstMatch (ts ++ [templateCatchAll]) w = firstMatch ts w := by
  induction ts with
  | nil => exact firstMatch_cons_of_hits [] ((Template.hits_iff_and _ _).mpr BitVec.and_zero)
  | cons t ts ih => rw [List.cons_append, firstMatch, firstMatch, ih]

/-- A template put into a list is selected for words it matches, and changes the answer for no other word. -/
theorem firstMatch_insert (ts us : List Template) (t : Template) (w : Word) :
    firstMatch (ts ++ t :: us) w = firstMatch (ts ++ us) w
      ∨ (t.hits w = true ∧ firstMatch (ts ++ t :: us) w = t.format.build w) := by
  induction ts with
  | nil =>
    cases ht : t.hits w with
    | true => exact .inr ⟨rfl, firstMatch_cons_of_hits us ht⟩
    | false => exact .inl (firstMatch_cons_of_miss us ht)
  | cons u ts ih =>
    simp only [List.cons_append]
    cases hu : u.hits w with
    | true => exact .inl (by rw [firstMatch_cons_of_hits _ hu, firstMatch_cons_of_hits _ hu])
    | false => simpa only [firstMatch_cons_of_miss _ hu] using ih

/-! ## The obligation -/

/-- Settles O4: the decoder is the scan by definition; the scan, by induction on the list. -/
theorem firstMatchingTemplateWins : Obligations.FirstMatchingTemplateWins := by
  unfold Obligations.FirstMatchingTemplateWins
  refine ⟨fun _ _ => rfl, fun ts k t w hk ht hleast => ?_⟩
  refine firstMatch_of_least_index hk ((t.hits_iff_and w).mpr ht) fun j u hj hu => ?_
  rw [Bool.eq_false_iff, ne_eq, Template.hits_iff_and]
  exact hleast j u hj hu

end Sys2Proof
end

section
/-! PROOFS. The template table and the terms of `Instr` (30_encoding.md R57, R66, R72): each term has one template, and
its word is the one that this template selects and builds the term from. -/

namespace Sys2Proof

open Machine Laws

/-! ## The template of an instruction -/

/-- The fields of an instruction's word, by its tag (R57, R58). -/
def formatOf : Instr → Format
  | .addW _ _ _ => .regReg .addW
  | .subW _ _ _ => .regReg .subW
  | .divW _ _ _ => .regReg .divW
  | .modW _ _ _ => .regReg .modW
  | .divWu _ _ _ => .regReg .divWu
  | .modWu _ _ _ => .regReg .modWu
  | .or _ _ _ => .regReg .or
  | .and _ _ _ => .regReg .and
  | .xor _ _ _ => .regReg .xor
  | .nor _ _ _ => .regReg .nor
  | .ori _ _ _ => .regImm12u .ori
  | .andi _ _ _ => .regImm12u .andi
  | .xori _ _ _ => .regImm12u .xori
  | .addiW _ _ _ => .regImm12s .addiW
  | .slt _ _ _ => .regReg .slt
  | .sltu _ _ _ => .regReg .sltu
  | .sllW _ _ _ => .regReg .sllW
  | .srlW _ _ _ => .regReg .srlW
  | .sraW _ _ _ => .regReg .sraW
  | .slliW _ _ _ => .regImm5u .slliW
  | .srliW _ _ _ => .regImm5u .srliW
  | .sraiW _ _ _ => .regImm5u .sraiW
  | .mulW _ _ _ => .regReg .mulW
  | .mulhW _ _ _ => .regReg .mulhW
  | .mulhWu _ _ _ => .regReg .mulhWu
  | .ldB _ _ _ => .regImm12s .ldB
  | .ldH _ _ _ => .regImm12s .ldH
  | .ldW _ _ _ => .regImm12s .ldW
  | .ldBu _ _ _ => .regImm12s .ldBu
  | .ldHu _ _ _ => .regImm12s .ldHu
  | .stB _ _ _ => .regImm12s .stB
  | .stH _ _ _ => .regImm12s .stH
  | .stW _ _ _ => .regImm12s .stW
  | .pcaddu12i _ _ => .regImm20s .pcaddu12i
  | .lu12iW _ _ => .regImm20s .lu12iW
  | .bl _ => .imm26s .bl
  | .b _ => .imm26s .b
  | .jirl _ _ _ => .regImm16s .jirl
  | .beq _ _ _ => .regImm16s fun rd rj i => .beq rj rd i
  | .bne _ _ _ => .regImm16s fun rd rj i => .bne rj rd i
  | .blt _ _ _ => .regImm16s fun rd rj i => .blt rj rd i
  | .bge _ _ _ => .regImm16s fun rd rj i => .bge rj rd i
  | .bltu _ _ _ => .regImm16s fun rd rj i => .bltu rj rd i
  | .bgeu _ _ _ => .regImm16s fun rd rj i => .bgeu rj rd i
  | .dbar _ => .noOperand fun w => .dbar (imm15Field w)
  | .ibar _ => .noOperand fun w => .ibar (imm15Field w)
  | .slti _ _ _ => .regImm12s .slti
  | .sltui _ _ _ => .regImm12s .sltui
  | .brk _ => .hint16 .brk
  | .inv _ => .noOperand .inv

/-- The template of an instruction: its fixed bits and its fields. -/
def templateOf (i : Instr) : Template := ⟨(fixedBits i).1, (fixedBits i).2, formatOf i⟩

/-- Every specific template is the template of what it builds. -/
theorem templateOf_build {p : Params} {t : Template} (ht : t ∈ specificTemplates p) (w : Word) :
    templateOf (t.format.build w) = t := by
  have hmap : (specificTemplates p).map (fun t => templateOf (t.format.build w)) = (specificTemplates p).map id := by
    unfold specificTemplates
    cases p.pSlti <;> rfl
  exact List.map_inj_left.mp hmap t ht

/-- The template of a specific instruction stands in the table; that of `slti` and `sltui` under `P_SLTI` (R72). -/
theorem templateOf_mem {p : Params} {i : Instr} (hwf : i.wellFormed p = true) (hinv : ∀ w, i ≠ .inv w) :
    templateOf i ∈ specificTemplates p := by
  simp only [specificTemplates, List.mem_append]
  cases i with
  | inv w => exact absurd rfl (hinv w)
  | addW | subW | divW | modW | divWu | modWu | or | and | xor | nor =>
    simp [templateOf, fixedBits, formatOf, templatesArith]
  | ori | andi | xori | addiW | slt | sltu | sllW | srlW | sraW | slliW | srliW | sraiW | mulW | mulhW | mulhWu =>
    simp [templateOf, fixedBits, formatOf, templatesLogicShift]
  | ldB | ldH | ldW | ldBu | ldHu | stB | stH | stW | pcaddu12i | lu12iW =>
    simp [templateOf, fixedBits, formatOf, templatesMemory]
  | bl | b | jirl | beq | bne | blt | bge | bltu | bgeu | dbar | ibar =>
    simp [templateOf, fixedBits, formatOf, templatesControl]
  | slti | sltui =>
    have hp : p.pSlti = true := (Bool.and_eq_true_iff.mp hwf).1
    simp [templateOf, fixedBits, formatOf, templatesOptional, hp]
  | brk => simp [templateOf, fixedBits, formatOf, templateBreak]

/-- The rows of the specific templates are those of R66, with the optional ones of R72 under `P_SLTI`. -/
theorem row_mem_iff (p : Params) (r : Word × Word) :
    r ∈ (specificTemplates p).map Template.row ↔ r ∈ specificRows ∨ (p.pSlti = true ∧ r ∈ optionalRows) := by
  have hrows : (specificTemplates p).map Template.row
      = specificRows.take 46 ++ (if p.pSlti then optionalRows else []) ++ specificRows.drop 46 := by
    unfold specificTemplates
    cases p.pSlti <;> rfl
  have hsplit : r ∈ specificRows ↔ r ∈ specificRows.take 46 ∨ r ∈ specificRows.drop 46 := by
    rw [← List.mem_append, List.take_append_drop]
  rw [hrows, hsplit, List.mem_append, List.mem_append, or_right_comm]
  cases p.pSlti <;> simp

/-- The spec's inference R68 for the specific templates: the rows differ pairwise. -/
theorem specificTemplates_pairwise_differ (p : Params) :
    (specificTemplates p).Pairwise fun t u => rowsDiffer t.row u.row = true := by
  unfold specificTemplates
  cases p.pSlti <;> decide

/-- The template of the catch-all is none of the specific templates (R55). -/
theorem templateOf_inv_not_mem (p : Params) (w : Word) : templateOf (.inv w) ∉ specificTemplates p := by
  intro h
  have hrow : ((0, 0) : Word × Word) ∈ specificRows ∨ (p.pSlti = true ∧ (0, 0) ∈ optionalRows) :=
    (row_mem_iff p _).mp (List.mem_map_of_mem (f := Template.row) h)
  have hnone : ((0, 0) : Word × Word) ∉ specificRows ++ optionalRows := by decide
  exact hnone (List.mem_append.mpr (hrow.imp_right And.right))

end Sys2Proof
end

section
/-! PROOFS. Round trips of decoder and encoder (30_encoding.md sections 4 to 7): a word is the encoding of an
instruction exactly when the instruction's template matches it and builds the instruction from it. -/

namespace Sys2Proof

open Machine Laws

/-! ## Words of each format (R57): their fixed bits and their fields -/

/-- Quotient and remainder are the two parts of a number. -/
theorem mul_add_eq_iff_div_mod {a b k n : Nat} (hb : b < k) : a * k + b = n ↔ n / k = a ∧ n % k = b := by
  rw [Nat.div_mod_unique (Nat.zero_lt_of_lt hb), Nat.mul_comm, Nat.add_comm]
  exact (and_iff_left hb).symm

theorem encodeRegReg_eq_iff (op : BitVec 17) (rd rj rk : RegIdx) (w : Word) :
    encodeRegReg op rd rj rk = w
      ↔ w &&& 0xffff8000#32 = op ++ 0#15 ∧ rdField w = rd ∧ rjField w = rj ∧ rkField w = rk := by
  simp only [← BitVec.toNat_inj, encodeRegReg_toNat, toNat_and_17, toNat_append, rdField_toNat, rjField_toNat,
    rkField_toNat, BitVec.toNat_ofNat]
  have := rd.isLt; have := rj.isLt; have := rk.isLt
  omega

/-- The immediate of the shifts stands where `rk` stands (R57, R64). -/
theorem imm5Field_eq_rkField (w : Word) : imm5Field w = rkField w := rfl

theorem encodeImm12_eq_iff (op : BitVec 10) (rd rj : RegIdx) (i : BitVec 12) (w : Word) :
    encodeImm12 op rd rj i = w
      ↔ w &&& 0xffc00000#32 = op ++ 0#22 ∧ rdField w = rd ∧ rjField w = rj ∧ imm12Field w = i := by
  simp only [← BitVec.toNat_inj, encodeImm12_toNat, toNat_and_10, toNat_append, rdField_toNat, rjField_toNat,
    imm12Field_toNat, BitVec.toNat_ofNat]
  have := rd.isLt; have := rj.isLt; have := i.isLt
  omega

theorem encodeImm16_eq_iff (op : BitVec 6) (rd rj : RegIdx) (i : BitVec 16) (w : Word) :
    encodeImm16 op rd rj i = w
      ↔ w &&& 0xfc000000#32 = op ++ 0#26 ∧ rdField w = rd ∧ rjField w = rj ∧ imm16Field w = i := by
  simp only [← BitVec.toNat_inj, encodeImm16_toNat, toNat_and_6, toNat_append, rdField_toNat, rjField_toNat,
    imm16Field_toNat, BitVec.toNat_ofNat]
  have := rd.isLt; have := rj.isLt; have := i.isLt
  omega

theorem encodeImm20_eq_iff (op : BitVec 7) (rd : RegIdx) (i : BitVec 20) (w : Word) :
    encodeImm20 op rd i = w ↔ w &&& 0xfe000000#32 = op ++ 0#25 ∧ rdField w = rd ∧ imm20Field w = i := by
  simp only [← BitVec.toNat_inj, encodeImm20_toNat, toNat_and_7, toNat_append, rdField_toNat, imm20Field_toNat,
    BitVec.toNat_ofNat]
  have := rd.isLt; have := i.isLt
  omega

theorem encodeImm26_eq_iff (op : BitVec 6) (i : BitVec 26) (w : Word) :
    encodeImm26 op i = w ↔ w &&& 0xfc000000#32 = op ++ 0#26 ∧ imm26Field w = i := by
  simp only [← BitVec.toNat_inj, encodeImm26_toNat, toNat_and_6, toNat_append, imm26Field_toNat, BitVec.toNat_ofNat]
  have hhigh : i.toNat / 2 ^ 16 < 2 ^ 10 := by have := i.isLt; omega
  have hlow : i.toNat % 2 ^ 16 < 2 ^ 16 := Nat.mod_lt _ (by decide)
  have hfield : w.toNat / 2 ^ 10 % 2 ^ 16 < 2 ^ 16 := Nat.mod_lt _ (by decide)
  rw [mul_add_eq_iff_div_mod hhigh, eq_comm (a := w.toNat / 2 ^ 10), mul_add_eq_iff_div_mod hlow,
    mul_add_eq_iff_div_mod hfield, Nat.div_div_eq_div_mul]
  omega

theorem encodeHint15_eq_iff (op : BitVec 17) (h : BitVec 15) (w : Word) :
    encodeHint15 op h = w ↔ w &&& 0xffff8000#32 = op ++ 0#15 ∧ imm15Field w = h := by
  simp only [← BitVec.toNat_inj, encodeHint15_toNat, toNat_and_17, toNat_append, imm15Field_toNat, BitVec.toNat_ofNat]
  have := h.isLt
  omega

/-! ## Every instruction -/

/-- The words of an instruction, by its template: the fixed bits match, and the fields are the operands. -/
theorem encode_eq_iff (i : Instr) (w : Word) :
    encode i = w ↔ (templateOf i).hits w = true ∧ (templateOf i).format.build w = i := by
  rw [Template.hits_iff_and]
  cases i with
  | addW | subW | divW | modW | divWu | modWu | or | and | xor | nor | slt | sltu | sllW | srlW | sraW | mulW | mulhW
  | mulhWu =>
    simp [encode, encodeRegReg_eq_iff, templateOf, fixedBits, formatOf, Format.build]
  | slliW | srliW | sraiW =>
    simp [encode, encodeRegReg_eq_iff, templateOf, fixedBits, formatOf, Format.build, imm5Field_eq_rkField]
  | ori | andi | xori | addiW | ldB | ldH | ldW | ldBu | ldHu | stB | stH | stW | slti | sltui =>
    simp [encode, encodeImm12_eq_iff, templateOf, fixedBits, formatOf, Format.build]
  | pcaddu12i | lu12iW => simp [encode, encodeImm20_eq_iff, templateOf, fixedBits, formatOf, Format.build]
  | bl | b => simp [encode, encodeImm26_eq_iff, templateOf, fixedBits, formatOf, Format.build]
  | jirl => simp [encode, encodeImm16_eq_iff, templateOf, fixedBits, formatOf, Format.build]
  | beq | bne | blt | bge | bltu | bgeu =>
    simp [encode, encodeImm16_eq_iff, templateOf, fixedBits, formatOf, Format.build, and_left_comm]
  | dbar | ibar | brk => simp [encode, encodeHint15_eq_iff, templateOf, fixedBits, formatOf, Format.build]
  | inv v => simp [encode, templateOf, fixedBits, formatOf, Format.build, eq_comm]

/-! ## The decoder as a scan of the specific templates -/

/-- What a word that the second `or` template takes is decoded to (R69). -/
theorem build_or2Template (o : Or2) (w : Word) :
    (or2Template o).format.build w = .or (rdField w) (rjField w) (rkField w) := rfl

theorem baseTable_eq (p : Params) : baseTable p = specificTemplates p ++ [templateCatchAll] := by
  simp [baseTable, specificTemplates]

/-- The decoder scans the specific templates, but for the words that the second `or` template takes (R55, R69). -/
theorem decodeWord_cases (p : Params) (w : Word) :
    decodeWord p w = firstMatch (specificTemplates p) w
      ∨ (takenByOr2 p w = true ∧ decodeWord p w = .or (rdField w) (rjField w) (rkField w)) := by
  have hbase : firstMatch (baseTable p) w = firstMatch (specificTemplates p) w := by
    rw [baseTable_eq, firstMatch_append_catchAll]
  unfold decodeWord templateTable takenByOr2
  cases p.or2 with
  | none => exact .inl hbase
  | some o =>
    have hins := firstMatch_insert ((baseTable p).take o.position) ((baseTable p).drop o.position) (or2Template o) w
    rwa [List.take_append_drop, hbase, build_or2Template] at hins

theorem decodeWord_of_not_taken {p : Params} {w : Word} (h : takenByOr2 p w = false) :
    decodeWord p w = firstMatch (specificTemplates p) w :=
  (decodeWord_cases p w).resolve_right fun ⟨ht, _⟩ => Bool.false_ne_true (h.symm.trans ht)

theorem takenByOr2_of_none {p : Params} (h : p.or2 = none) (w : Word) : takenByOr2 p w = false := by
  rw [takenByOr2, h]

theorem decodeWord_of_or2_none {p : Params} (h : p.or2 = none) (w : Word) :
    decodeWord p w = firstMatch (specificTemplates p) w := decodeWord_of_not_taken (takenByOr2_of_none h w)

/-! ## Decoding what was encoded -/

/-- Only `or` is well-formed with a word that the second `or` template takes (R69). -/
theorem Instr.wellFormed_cases {p : Params} {i : Instr} (h : i.wellFormed p = true) :
    (∃ rd rj rk, i = .or rd rj rk) ∨ takenByOr2 p (encode i) = false := by
  cases i with
  | or rd rj rk => exact .inl ⟨rd, rj, rk, rfl⟩
  | slti | sltui | inv => exact .inr (by simpa [encode] using (Bool.and_eq_true_iff.mp h).2)
  | _ => exact .inr (by simpa [wellFormed] using h)

/-- A well-formed catch-all holds a word that no specific template matches (R70). -/
theorem Instr.wellFormed_inv_miss {p : Params} {w : Word} (h : (Instr.inv w).wellFormed p = true) :
    ∀ t ∈ specificTemplates p, t.hits w = false := by
  simpa using List.all_eq_true.mp (Bool.and_eq_true_iff.mp h).1

/-- The scan of the specific templates gives a well-formed instruction back from its word. -/
theorem firstMatch_encode {p : Params} {i : Instr} (hwf : i.wellFormed p = true) :
    firstMatch (specificTemplates p) (encode i) = i := by
  by_cases hinv : ∃ w, i = .inv w
  · obtain ⟨w, rfl⟩ := hinv
    exact firstMatch_of_all_miss (Instr.wellFormed_inv_miss hwf)
  · obtain ⟨hhits, hbuild⟩ := (encode_eq_iff i (encode i)).mp rfl
    have hmem := templateOf_mem hwf fun w hw => hinv ⟨w, hw⟩
    exact (firstMatch_of_pairwise_differ (specificTemplates_pairwise_differ p) hmem hhits).trans hbuild

/-- Settles O1, by whether the second `or` template takes the word: it builds from the word of an `or` that `or`;
otherwise the decoder is the scan of the specific templates. -/
theorem decodeOfEncodeIsIdentity : Obligations.DecodeOfEncodeIsIdentity := by
  unfold Obligations.DecodeOfEncodeIsIdentity
  intro p i hwf
  obtain hscan | ⟨htaken, hor⟩ := decodeWord_cases p (encode i)
  · exact hscan.trans (firstMatch_encode hwf)
  · obtain ⟨rd, rj, rk, rfl⟩ | hnot := Instr.wellFormed_cases hwf
    · exact hor.trans ((encode_eq_iff (.or rd rj rk) _).mp rfl).2
    · exact absurd (hnot.symm.trans htaken) Bool.false_ne_true

/-! ## Encoding what was decoded -/

/-- What a specific template builds is well-formed in a table without a second `or` template. -/
theorem Instr.wellFormed_of_templateOf_mem {p : Params} {i : Instr} (hp : p.or2 = none)
    (hmem : templateOf i ∈ specificTemplates p) : i.wellFormed p = true := by
  have hrow := (row_mem_iff p _).mp (List.mem_map_of_mem (f := Template.row) hmem)
  cases i with
  | or => rfl
  | slti | sltui =>
    have hopt : p.pSlti = true := (hrow.resolve_left (by simp [Template.row, templateOf, fixedBits, specificRows])).1
    simp [wellFormed, hopt, takenByOr2_of_none hp]
  | inv w => exact absurd hmem (templateOf_inv_not_mem p w)
  | _ => simp [wellFormed, takenByOr2_of_none hp]

/-- Settles O2, by whether a specific template matches the word: its row is the one of what it builds; otherwise the
catch-all keeps the word. -/
theorem encodeOfDecodeIsIdentity : Obligations.EncodeOfDecodeIsIdentity := by
  unfold Obligations.EncodeOfDecodeIsIdentity
  intro p w hp
  rw [decodeWord_of_or2_none hp]
  obtain ⟨t, hmem, hhits, heq⟩ | ⟨hmiss, heq⟩ := firstMatch_cases (specificTemplates p) w
  · have htpl : templateOf (t.format.build w) = t := templateOf_build hmem w
    rw [heq, encode_eq_iff, htpl]
    exact ⟨⟨hhits, rfl⟩, Instr.wellFormed_of_templateOf_mem hp (htpl.symm ▸ hmem)⟩
  · rw [heq]
    exact ⟨rfl, by simpa [Instr.wellFormed, takenByOr2_of_none hp] using hmiss⟩

/-! ## The spec's examples -/

/-- Settles O3, by running the decoder on each word. -/
theorem exampleWordsDecode : Obligations.ExampleWordsDecode := by
  unfold Obligations.ExampleWordsDecode
  decide

end Sys2Proof
end

section
/-! PROOFS. Illegal encodings (30_encoding.md R70): the words that select the catch-all, and what it does with them. -/

namespace Sys2Proof

open Machine Laws

/-- A word matches no row of R66, nor an optional row of R72 where these are present. -/
def MatchesNoRow (p : Params) (w : Word) : Prop :=
  (∀ r ∈ specificRows, w &&& r.1 ≠ r.2) ∧ (p.pSlti = true → ∀ r ∈ optionalRows, w &&& r.1 ≠ r.2)

theorem matchesNoRow_of_all (p : Params) {w : Word}
    (h : (specificRows ++ optionalRows).all (fun r => w &&& r.1 != r.2) = true) : MatchesNoRow p w := by
  have hmiss : ∀ r ∈ specificRows ++ optionalRows, w &&& r.1 ≠ r.2 :=
    fun r hr => bne_iff_ne.mp (List.all_eq_true.mp h r hr)
  exact ⟨fun r hr => hmiss r (List.mem_append_left _ hr), fun _ r hr => hmiss r (List.mem_append_right _ hr)⟩

theorem specificTemplates_miss_iff (p : Params) (w : Word) :
    (∀ t ∈ specificTemplates p, t.hits w = false) ↔ MatchesNoRow p w := by
  calc (∀ t ∈ specificTemplates p, t.hits w = false)
      ↔ ∀ r ∈ (specificTemplates p).map Template.row, w &&& r.1 ≠ r.2 := by
        simp [Template.row, Bool.eq_false_iff, Template.hits_iff_and]
    _ ↔ MatchesNoRow p w := by
        simp only [row_mem_iff, or_imp, and_imp, forall_and, MatchesNoRow]
        exact and_congr_right fun _ => forall_comm

/-- The scan of the specific templates ends at the catch-all exactly for the words that match none of them. -/
theorem firstMatch_eq_inv_iff (p : Params) (w v : Word) :
    firstMatch (specificTemplates p) w = .inv v ↔ v = w ∧ ∀ t ∈ specificTemplates p, t.hits w = false := by
  constructor
  · intro h
    obtain ⟨t, hmem, -, heq⟩ | ⟨hmiss, heq⟩ := firstMatch_cases (specificTemplates p) w
    · have htpl : templateOf (.inv v) = t := (heq.symm.trans h) ▸ templateOf_build hmem w
      exact absurd (htpl ▸ hmem) (templateOf_inv_not_mem p v)
    · exact ⟨Instr.inv.inj (h.symm.trans heq), hmiss⟩
  · rintro ⟨rfl, hmiss⟩
    exact firstMatch_of_all_miss hmiss

theorem decodeWord_eq_inv_iff {p : Params} (hp : p.or2 = none) (w v : Word) :
    decodeWord p w = .inv v ↔ v = w ∧ MatchesNoRow p w := by
  rw [decodeWord_of_or2_none hp, firstMatch_eq_inv_iff, specificTemplates_miss_iff]

/-- The meaning of the catch-all: the invalid signal with the pc, in every state (R70, 40_step.md R91). -/
theorem exec_inv_signals (v : Word) (s : State) : ∃ t, exec (.inv v) s = .next t ∧ Signals s t (.aborted s.pc) :=
  ⟨s.raiseEvent (.invalid s.pc), rfl,
    { zero   := by simp
      others := fun r hr => (raiseEvent_invalid_reg s s.pc r).trans (if_neg hr)
      memory := fun a => by simp
      status := by simp
      params := by simp
      draws  := by simp }⟩

/-! ## The obligation -/

/-- Settles O8: the catch-all is selected for the words that match no row; it raises the signal; the rows of the table
miss the words of all ones and of all zeros. -/
theorem illegalEncodingsAreInvalid : Obligations.IllegalEncodingsAreInvalid := by
  unfold Obligations.IllegalEncodingsAreInvalid
  refine ⟨fun p w hp => ?_, fun p w v s h => h ▸ exec_inv_signals v s, fun p hp => ?_⟩
  · simp only [decodeWord_eq_inv_iff hp, exists_eq_left, MatchesNoRow]
  · simp only [decodeWord_eq_inv_iff hp, true_and]
    exact ⟨matchesNoRow_of_all p (by decide), matchesNoRow_of_all p (by decide)⟩

end Sys2Proof
end

section
/-! PROOFS. Compilation of patterns (30_encoding.md R51, R52): each symbol appends one bit to the mask and one to the
expected bits. -/

namespace Sys2Proof

/-! ## One symbol -/

/-- The symbols of R51. -/
def IsSymbol (c : Char) : Prop := c = '0' ∨ c = '1' ∨ c = '?'

theorem shiftLeft_one (x : Word) : x <<< 1 = x.shiftConcat false := by
  ext k
  cases k <;> simp [BitVec.getElem_shiftConcat]

theorem shiftConcat_or_one (x : Word) : x.shiftConcat false ||| 1 = x.shiftConcat true := by
  ext k
  cases k <;> simp [BitVec.getElem_shiftConcat]

/-- A symbol appends to the mask whether it is fixed, and to the expected bits whether it is `1` (R52). -/
theorem patternSymbol_of_isSymbol {c : Char} (hc : IsSymbol c) (m e : Word) (n : Nat) :
    patternSymbol (some (m, e, n)) c
      = some (m.shiftConcat (decide (c = '0' ∨ c = '1')), e.shiftConcat (decide (c = '1')), n + 1) := by
  simp only [patternSymbol, shiftLeft_one]
  by_cases h0 : c = '0'
  · have h1 : c ≠ '1' := h0 ▸ by decide
    rw [if_pos h0, shiftConcat_or_one, decide_eq_true (.inl h0), decide_eq_false h1]
  · by_cases h1 : c = '1'
    · rw [if_neg h0, if_pos h1, shiftConcat_or_one, shiftConcat_or_one, decide_eq_true (.inr h1), decide_eq_true h1]
    · have hq : c = '?' := (hc.resolve_left h0).resolve_left h1
      rw [if_neg h0, if_neg h1, if_pos hq, decide_eq_false (not_or.mpr ⟨h0, h1⟩), decide_eq_false h1]

/-! ## A list of symbols -/

/-- What the mask and the expected bits of the symbols read so far are: the last symbol is at bit 0. -/
structure Compiles (cs : List Char) (m e : Word) : Prop where
  mask     : ∀ (p : Nat) (c : Char), cs[p]? = some c → m.getLsbD (cs.length - 1 - p) = decide (c = '0' ∨ c = '1')
  expected : ∀ (p : Nat) (c : Char), cs[p]? = some c → e.getLsbD (cs.length - 1 - p) = decide (c = '1')
  inMask   : ∀ k, e.getLsbD k = true → m.getLsbD k = true

theorem compiles_nil : Compiles [] 0 0 := ⟨by simp, by simp, by simp⟩

/-- A bit appended on the right is the one of the last of at most 32 symbols; those before it move up by one. -/
theorem getLsbD_shiftConcat_symbol {cs : List Char} {x : Word} {f : Char → Bool} (hlen : cs.length < 32)
    (h : ∀ (p : Nat) (c : Char), cs[p]? = some c → x.getLsbD (cs.length - 1 - p) = f c)
    (d : Char) (p : Nat) (c : Char) (hc : (cs ++ [d])[p]? = some c) :
    (x.shiftConcat (f d)).getLsbD ((cs ++ [d]).length - 1 - p) = f c := by
  rw [List.length_append, List.length_singleton, Nat.add_sub_cancel, BitVec.getLsbD_shiftConcat]
  rcases Nat.lt_trichotomy p cs.length with hlt | rfl | hgt
  · rw [List.getElem?_append_left hlt] at hc
    have hpos : cs.length - p ≠ 0 := by omega
    have hbit : cs.length - p < 32 := by omega
    rw [if_neg hpos, Nat.sub_right_comm, h p c hc]
    simp [hbit]
  · obtain rfl : d = c := by simpa using hc
    simp
  · rw [List.getElem?_eq_none (by simp; omega)] at hc
    cases hc

theorem Compiles.snoc {cs : List Char} {m e : Word} (h : Compiles cs m e) (hlen : cs.length < 32) (d : Char) :
    Compiles (cs ++ [d]) (m.shiftConcat (decide (d = '0' ∨ d = '1'))) (e.shiftConcat (decide (d = '1'))) where
  mask     := getLsbD_shiftConcat_symbol hlen (f := fun c => decide (c = '0' ∨ c = '1')) h.mask d
  expected := getLsbD_shiftConcat_symbol hlen (f := fun c => decide (c = '1')) h.expected d
  inMask k := by
    simp only [BitVec.getLsbD_shiftConcat]
    cases k with
    | zero => simp +contextual
    | succ k => simpa using fun hk he => ⟨hk, h.inMask k he⟩

/-- Reading at most 32 symbols from the left compiles them. -/
theorem foldl_patternSymbol (cs : List Char) (hlen : cs.length ≤ 32) (hsym : ∀ c ∈ cs, IsSymbol c) :
    ∃ m e, cs.foldl patternSymbol (some (0, 0, 0)) = some (m, e, cs.length) ∧ Compiles cs m e := by
  induction cs using List.reverseRecOn with
  | nil => exact ⟨0, 0, rfl, compiles_nil⟩
  | append_singleton cs d ih =>
    rw [List.length_append, List.length_singleton] at hlen
    obtain ⟨m, e, hfold, hcomp⟩ := ih (by omega) fun c hc => hsym c (List.mem_append_left [d] hc)
    refine ⟨_, _, ?_, hcomp.snoc (by omega) d⟩
    rw [List.foldl_append, hfold, List.length_append]
    exact patternSymbol_of_isSymbol (hsym d (by simp)) m e cs.length

/-! ## The obligation -/

/-- Settles O5, by induction on the symbols from the left: compilation keeps `Compiles`. -/
theorem patternCompilation : Obligations.PatternCompilation := by
  unfold Obligations.PatternCompilation
  intro cs hlen hsym
  obtain ⟨m, e, hfold, hcomp⟩ := foldl_patternSymbol cs hlen.le hsym
  have hmask := hcomp.mask
  have hexpected := hcomp.expected
  have hlast : cs.length - 1 = 31 := by omega
  rw [hlast] at hmask hexpected
  refine ⟨m, e, by rw [compilePattern, hfold]; exact if_pos hlen, fun p c hc => ⟨hmask p c hc, hexpected p c hc⟩, ?_⟩
  apply BitVec.eq_of_getLsbD_eq
  intro k hk
  cases he : e.getLsbD k with
  | false => simp [he]
  | true => simp [hcomp.inMask k he]

end Sys2Proof
end

section
/-! PROOFS. The destination register 0 (40_step.md R88): an instruction that only writes it back moves the pc alone. -/

namespace Sys2Proof.Machine

theorem setReg_setReg_same (s : State) (r : RegIdx) (u v : Word) : (s.setReg r u).setReg r v = s.setReg r v := by
  simp [State.setReg]

/-- Writing to a register the value it holds changes nothing. -/
theorem setReg_reg_self (s : State) (r : RegIdx) : s.setReg r (s.reg r) = s := by
  simp [State.setReg, State.reg]

theorem writeBack_zero {s : State} (h0 : s.reg 0 = 0) (v : Word) : s.writeBack 0 v = { s with pc := s.pc + 4 } := by
  have hregs : (s.setReg 0 v).setReg 0 0 = s := by
    rw [setReg_setReg_same, ← h0, setReg_reg_self]
  calc s.writeBack 0 v
      = { (s.setReg 0 v).setReg 0 0 with pc := s.pc + 4 } := rfl
    _ = { s with pc := s.pc + 4 } := by rw [hregs]

/-- The destination of an instruction of 41_alu.md, a register shift or a multiply: those whose meaning is
`writeBack` in every state. -/
def writeBackDest (i : Instr) : Option RegIdx :=
  match i with
  | .addW rd _ _ | .subW rd _ _ | .nor rd _ _ | .and rd _ _ | .or rd _ _ | .xor rd _ _ => some rd
  | .slt rd _ _ | .sltu rd _ _ | .sllW rd _ _ | .srlW rd _ _ | .sraW rd _ _ => some rd
  | .mulW rd _ _ | .mulhW rd _ _ | .mulhWu rd _ _ => some rd
  | .addiW rd _ _ | .andi rd _ _ | .ori rd _ _ | .xori rd _ _ | .slti rd _ _ | .sltui rd _ _ => some rd
  | .lu12iW rd _ | .pcaddu12i rd _ => some rd
  | _ => none

theorem exec_of_writeBackDest {i : Instr} {rd : RegIdx} (s : State) (hi : writeBackDest i = some rd) :
    ∃ v, exec i s = .next (s.writeBack rd v) := by
  cases i with
  | divW | modW | divWu | modWu | slliW | srliW | sraiW => cases hi
  | ldB | ldH | ldW | ldBu | ldHu | stB | stH | stW => cases hi
  | b | bl | jirl | beq | bne | blt | bge | bltu | bgeu => cases hi
  | dbar | ibar | brk | inv => cases hi
  | _ => cases hi; exact ⟨_, rfl⟩

/-- Settles O18: each of the 22 instructions only writes back to register 0, which retiring zeroes again. -/
theorem destinationZeroOnlyMovesPc : Obligations.DestinationZeroOnlyMovesPc := by
  unfold Obligations.DestinationZeroOnlyMovesPc
  intro rj rk i12 i20 s h0 i hi
  have hdest : writeBackDest i = some 0 := List.map_eq_replicate_iff.mp rfl i hi
  obtain ⟨v, hexec⟩ := exec_of_writeBackDest s hdest
  rw [hexec, writeBack_zero h0]

end Sys2Proof.Machine
end

section
/-! PROOFS. What an instruction can do (40_step.md R91), said once for all instructions and every state: complete, raise
one of the four events, or be refused by the model (42_shift.md R120). -/

namespace Sys2Proof.Machine

/-! ## The outcomes -/

/-- `t` is `s` after an instruction `i` that completes: register 0 is zeroed (R88), the status passes, and the pc
advances unless `i` assigns `dnpc` (R89). -/
structure Completes (i : Instr) (s t : State) : Prop where
  zero   : t.reg 0 = 0
  status : t.status = s.status
  pc     : isControlTransfer i = false → t.pc = s.pc + 4

/-- `i` ends the run with a fault: a load or store the memory does not admit (20_memory.md R38), or a divide whose
result the spec leaves open, under the policy `fault` for it (43_muldiv.md R138). -/
inductive FaultCause (i : Instr) (s : State) : FaultReason → Prop where
  | load {rj : RegIdx} {si12 : BitVec 12} {w : Width} (form : loadForm i = some (rj, si12, w))
      (rejected : s.admits (effectiveAddr s rj si12) w .load = false) :
      FaultCause i s (.memory (effectiveAddr s rj si12) w .load)
  | store {rj : RegIdx} {si12 : BitVec 12} {w : Width} (form : storeForm i = some (rj, si12, w))
      (rejected : s.admits (effectiveAddr s rj si12) w .store = false) :
      FaultCause i s (.memory (effectiveAddr s rj si12) w .store)
  | divide {op : DivOp} {rj rk : RegIdx} (form : divForm i = some (op, rj, rk))
      (cause : s.reg rk = 0 ∧ s.params.div0 = .fault
        ∨ (op = .divW ∨ op = .modW) ∧ s.reg rj = 0x80000000 ∧ s.reg rk = 0xFFFFFFFF ∧ s.params.divOvf = .fault) :
      FaultCause i s (.divide s.pc)

/-- What `i` can answer in the state `s`. -/
inductive ExecOutcome (i : Instr) (s : State) : Result → Prop where
  | completes {t : State} (h : Completes i s t) : ExecOutcome i s (.next t)
  | trap {code : BitVec 15} (hi : i = .brk code) :
      ExecOutcome i s (.next (s.raiseEvent (.trap s.pc (s.reg s.params.exitReg))))
  | invalid {word : Word} (hi : i = .inv word) : ExecOutcome i s (.next (s.raiseEvent (.invalid s.pc)))
  | fault {r : FaultReason} (cause : FaultCause i s r) : ExecOutcome i s (.next (s.raiseEvent (.fault r)))
  | refused {rd rj : RegIdx} {ui5 : BitVec 5} (setting : s.params.shiftImmHi = .refuse) (amount : 16 ≤ ui5.toNat)
      (hi : i = .slliW rd rj ui5 ∨ i = .srliW rd rj ui5 ∨ i = .sraiW rd rj ui5) :
      ExecOutcome i s (.refused (.shiftImmHi ui5))

/-! ## Each shared operation has one of the outcomes -/

theorem retire_completes {i : Instr} {s u : State} {dnpc : Word} (hst : u.status = s.status)
    (hpc : isControlTransfer i = false → dnpc = s.pc + 4) : Completes i s (u.retire dnpc) where
  zero   := by simp
  status := hst
  pc     := hpc

theorem writeBack_completes (i : Instr) (s : State) (rd : RegIdx) (v : Word) : Completes i s (s.writeBack rd v) :=
  retire_completes rfl fun _ => rfl

theorem drawInto_completes (i : Instr) (s : State) (rd : RegIdx) : Completes i s (s.drawInto rd) where
  zero   := by simp
  status := rfl
  pc     := fun _ => rfl

theorem branch_completes {i : Instr} (hi : isControlTransfer i = true) (s : State) (c : Bool) (imm : Word) :
    Completes i s (s.branch c imm) :=
  retire_completes rfl fun hf => absurd hi (Bool.eq_false_iff.mp hf)

theorem loadInto_outcome {i : Instr} {rj : RegIdx} {si12 : BitVec 12} {w : Width}
    (hi : loadForm i = some (rj, si12, w)) (s : State) (f : Word → Word) (rd : RegIdx) :
    ExecOutcome i s (.next (s.loadInto w f rd (effectiveAddr s rj si12))) := by
  obtain ⟨-, h⟩ | ⟨hrej, h⟩ := loadInto_cases s w f rd (effectiveAddr s rj si12) <;> rw [h]
  · exact .completes (writeBack_completes i s rd _)
  · exact .fault (.load hi hrej)

theorem storeFrom_outcome {i : Instr} {rj : RegIdx} {si12 : BitVec 12} {w : Width}
    (hi : storeForm i = some (rj, si12, w)) (s : State) (v : Word) :
    ExecOutcome i s (.next (s.storeFrom w (effectiveAddr s rj si12) v)) := by
  obtain ⟨-, h⟩ | ⟨hrej, h⟩ := storeFrom_cases s w (effectiveAddr s rj si12) v <;> rw [h]
  · exact .completes (retire_completes rfl fun _ => rfl)
  · exact .fault (.store hi hrej)

/-- The overflow pair of 43_muldiv.md R138 (b), for the signed divides alone. -/
theorem divOverflows_iff (op : DivOp) (a b : Word) :
    divOverflows op a b = true ↔ (op = .divW ∨ op = .modW) ∧ a = 0x80000000 ∧ b = 0xFFFFFFFF := by
  cases op <;> simp [divOverflows]

theorem divide_outcome {i : Instr} {op : DivOp} {rj rk : RegIdx} (hi : divForm i = some (op, rj, rk))
    (s : State) (rd : RegIdx) : ExecOutcome i s (.next (s.divide op rd (s.reg rj) (s.reg rk))) := by
  obtain ⟨-, -, h⟩ | ⟨-, -, h⟩ | ⟨-, -, -, h⟩ | ⟨-, h⟩ | ⟨hcause, h⟩ := divide_cases s op rd (s.reg rj) (s.reg rk)
    <;> rw [h]
  · exact .completes (writeBack_completes i s rd _)
  · exact .completes (writeBack_completes i s rd _)
  · exact .completes (writeBack_completes i s rd _)
  · exact .completes (drawInto_completes i s rd)
  · refine .fault (.divide hi (hcause.imp_right fun ⟨_, hover, hpolicy⟩ => ?_))
    obtain ⟨hop, hrj, hrk⟩ := (divOverflows_iff op _ _).mp hover
    exact ⟨hop, hrj, hrk, hpolicy⟩

/-- inst[14] = 1 means an amount of 16 to 31. -/
theorem amount_msb_iff (ui5 : BitVec 5) : ui5.msb = true ↔ 16 ≤ ui5.toNat := by
  simp [BitVec.msb_eq_decide]

theorem shiftImm_refused {s : State} {ui5 : BitVec 5} (hset : s.params.shiftImmHi = .refuse) (hamt : 16 ≤ ui5.toNat)
    (rd : RegIdx) (v : Word) : s.shiftImm rd ui5 v = .refused (.shiftImmHi ui5) :=
  if_pos ⟨hset, (amount_msb_iff ui5).mpr hamt⟩

theorem shiftImm_outcome {i : Instr} {rd rj : RegIdx} {ui5 : BitVec 5}
    (hi : i = .slliW rd rj ui5 ∨ i = .srliW rd rj ui5 ∨ i = .sraiW rd rj ui5) (s : State) (v : Word) :
    ExecOutcome i s (s.shiftImm rd ui5 v) := by
  obtain ⟨-, h⟩ | ⟨⟨hset, hmsb⟩, h⟩ := shiftImm_cases s rd ui5 v <;> rw [h]
  · exact .completes (writeBack_completes i s rd v)
  · exact .refused hset ((amount_msb_iff ui5).mp hmsb) hi

/-! ## Each instruction has one of the outcomes -/

theorem exec_outcome (i : Instr) (s : State) : ExecOutcome i s (exec i s) := by
  cases i with
  | ldB | ldH | ldW | ldBu | ldHu => exact loadInto_outcome rfl s _ _
  | stB | stH | stW => exact storeFrom_outcome rfl s _
  | divW | modW | divWu | modWu => exact divide_outcome rfl s _
  | slliW rd rj => exact shiftImm_outcome (rj := rj) (.inl rfl) s _
  | srliW rd rj => exact shiftImm_outcome (rj := rj) (.inr (.inl rfl)) s _
  | sraiW rd rj => exact shiftImm_outcome (rj := rj) (.inr (.inr rfl)) s _
  | beq | bne | blt | bge | bltu | bgeu => exact .completes (branch_completes rfl s _ _)
  | b | bl | jirl => exact .completes (retire_completes rfl nofun)
  | dbar | ibar => exact .completes (retire_completes rfl fun _ => rfl)
  | brk => exact .trap rfl
  | inv => exact .invalid rfl
  | _ => exact .completes (writeBack_completes _ s _ _)

theorem outcome_of_exec_eq {i : Instr} {s : State} {o : Result} (h : exec i s = o) : ExecOutcome i s o :=
  h ▸ exec_outcome i s

/-! ## The obligation -/

/-- Settles O21: the shared operation of the immediate shifts refuses the high amounts, and among the outcomes of an
instruction there is no fault and no other refusal. -/
theorem refusalIsOfHighImmediateShiftsOnly : Obligations.RefusalIsOfHighImmediateShiftsOnly := by
  unfold Obligations.RefusalIsOfHighImmediateShiftsOnly
  refine ⟨fun rd rj ui5 s hset hamt => ?_, fun i s => ⟨fun f hf => ?_, fun r hr => ?_⟩⟩
  · have hrefused := fun v => shiftImm_refused (s := s) hset hamt rd v
    exact ⟨hrefused _, hrefused _, hrefused _⟩
  · cases outcome_of_exec_eq hf
  · cases outcome_of_exec_eq hr with
    | @refused rd rj ui5 hset hamt hi => exact ⟨hset, rd, rj, ui5, hamt, hi⟩

end Sys2Proof.Machine
end

section
/-! PROOFS. What a step can do: the fetch (40_step.md R81, R83), then the outcomes of the instruction (R88, R91). -/

namespace Sys2Proof.Machine

/-! ## The fetch -/

theorem fetched_of_admits {s : State} (h : s.admits s.pc .word .fetch = true) :
    s.fetched = .ok (decodeWord s.params (s.readRaw s.pc 4)) := if_pos h

/-- The only fault of a fetch is that of a request the memory does not admit. -/
theorem fetched_error {s : State} {r : FaultReason} (h : s.fetched = .error r) :
    s.admits s.pc .word .fetch = false ∧ r = .memory s.pc .word .fetch := by
  cases hadm : s.admits s.pc .word .fetch with
  | true => cases (fetched_of_admits hadm).symm.trans h
  | false =>
    have hrej : s.fetched = .error (.memory s.pc .word .fetch) := if_neg (Bool.eq_false_iff.mp hadm)
    cases hrej.symm.trans h
    exact ⟨rfl, rfl⟩

theorem step_of_fetched {s : State} {i : Instr} (hrun : s.status = .running) (hf : s.fetched = .ok i) :
    step s = exec i s := by
  obtain ⟨j, hj, hstep⟩ | ⟨r, hr, -⟩ := step_running s hrun
  · cases hj.symm.trans hf
    exact hstep
  · cases hr.symm.trans hf

/-- The lowest byte of a little-endian request, joined to the bytes above it (20_memory.md R33, R35). -/
theorem setWidth_or_shiftLeft_eight {k : Nat} (lo : Byte) (hi : BitVec k) (n : Nat) :
    lo.setWidth n ||| (hi.setWidth n <<< 8) = (hi ++ lo).setWidth n := by
  ext i hin
  by_cases hlow : i < 8
  · simp [BitVec.getLsbD_append, hlow]
  · have hhigh : lo.getLsbD i = false := BitVec.getLsbD_of_ge lo i (Nat.le_of_not_lt hlow)
    simp [BitVec.getLsbD_append, hlow, hhigh]

/-- A word request reads the word of its four bytes. -/
theorem readRaw_word_eq_wordOfBytes (s : State) (a : Word) :
    s.readRaw a 4 = wordOfBytes (byteOf s a 0) (byteOf s a 1) (byteOf s a 2) (byteOf s a 3) := by
  have haddr : a + 1 + 1 = a + 2 ∧ a + 1 + 1 + 1 = a + 3 := by simp [BitVec.add_assoc]
  rw [readRaw_word, haddr.2, haddr.1]
  simp [setWidth_or_shiftLeft_eight, wordOfBytes, byteOf]

/-- Settles O41: the word of the fetch is that of the four bytes, and a step executes what it decodes to. -/
theorem stepRunsDecodedInstruction : Obligations.StepRunsDecodedInstruction := by
  unfold Obligations.StepRunsDecodedInstruction
  intro s i hrun hadm hdec
  refine step_of_fetched hrun ?_
  rw [fetched_of_admits hadm, readRaw_word_eq_wordOfBytes]
  cases hdec
  rfl

/-! ## The outcomes of a step -/

theorem signals_of_trap (s : State) (pc code : Word) :
    Signals s (s.raiseEvent (.trap pc code)) (.exited pc code) where
  zero   := by simp
  others := fun r hr => (raiseEvent_trap_reg s pc code r).trans (if_neg hr)
  memory := fun a => by simp
  status := by simp
  params := by simp
  draws  := by simp

theorem signals_of_invalid (s : State) : Signals s (s.raiseEvent (.invalid s.pc)) (.aborted s.pc) := by
  obtain ⟨t, hexec, hsig⟩ := exec_inv_signals 0 s
  cases hexec
  exact hsig

/-- R88 for a state `t` that a step leaves: register 0 is zeroed, unless `t` is a fault's, which keeps every register. -/
def ZeroUnlessFaulted (s t : State) : Prop :=
  ((∀ r, t.status ≠ .faulted r) → t.reg 0 = 0) ∧ (∀ r, t.status = .faulted r → ∀ q, t.reg q = s.reg q)

theorem zeroUnlessFaulted_of_fault (s : State) (r : FaultReason) : ZeroUnlessFaulted s (s.raiseEvent (.fault r)) :=
  ⟨fun h => absurd rfl (h r), fun _ _ q => raiseEvent_fault_reg s r q⟩

theorem zeroUnlessFaulted_of_zero {s t : State} (h0 : t.reg 0 = 0) (hst : ∀ r, t.status ≠ .faulted r) :
    ZeroUnlessFaulted s t := ⟨fun _ => h0, fun r hr => absurd hr (hst r)⟩

theorem exec_zeroUnlessFaulted {i : Instr} {s t : State} (hrun : s.status = .running) (h : exec i s = .next t) :
    ZeroUnlessFaulted s t := by
  cases outcome_of_exec_eq h with
  | completes hc => exact zeroUnlessFaulted_of_zero hc.zero fun r => by simp [hc.status, hrun]
  | trap => exact zeroUnlessFaulted_of_zero (by simp) (by simp)
  | invalid => exact zeroUnlessFaulted_of_zero (by simp) (by simp)
  | fault => exact zeroUnlessFaulted_of_fault s _

theorem status_running_of_step {s t : State} (h : step s = .next t) : s.status = .running := by
  by_contra hend
  cases (step_ended s hend).symm.trans h

/-- Settles O44, by the outcome of the step. -/
theorem registerZeroAfterEveryStep : Obligations.RegisterZeroAfterEveryStep := by
  unfold Obligations.RegisterZeroAfterEveryStep
  intro s t h
  have hrun := status_running_of_step h
  obtain ⟨i, -, hstep⟩ | ⟨r, -, hstep⟩ := step_running s hrun
  · exact exec_zeroUnlessFaulted hrun (hstep.symm.trans h)
  · cases hstep.symm.trans h
    exact zeroUnlessFaulted_of_fault s r

/-- Settles O45: the fetch is refused, or the instruction has one of its outcomes; that of a `break` or of the
catch-all is never to complete, since its status is not `running`. -/
theorem stepOutcomes : Obligations.StepOutcomes := by
  unfold Obligations.StepOutcomes
  intro s hrun
  obtain ⟨i, hf, hstep⟩ | ⟨r, hf, hstep⟩ := step_running s hrun
  · rw [hstep]
    generalize hexec : exec i s = o
    cases outcome_of_exec_eq hexec with
    | @completes t hc =>
      have hst : t.status = .running := hc.status.trans hrun
      have hbrk : ∀ c, i ≠ .brk c := by rintro c rfl; cases hexec; cases hst
      have hinv : ∀ w, i ≠ .inv w := by rintro w rfl; cases hexec; cases hst
      exact .inl ⟨t, rfl, .inl ⟨hst, hc.zero, i, hf, hexec, hbrk, hinv, hc.pc⟩⟩
    | @trap code hi => exact .inl ⟨_, rfl, .inr (.inl ⟨⟨code, hi ▸ hf⟩, signals_of_trap s _ _⟩)⟩
    | @invalid word hi => exact .inl ⟨_, rfl, .inr (.inr (.inl ⟨⟨word, hi ▸ hf⟩, signals_of_invalid s⟩))⟩
    | fault cause =>
      refine .inl ⟨_, rfl, .inr (.inr (.inr (.inr ?_)))⟩
      cases cause with
      | load form rejected => exact .inl ⟨i, _, _, _, hf, form, rejected, rfl⟩
      | store form rejected => exact .inr (.inl ⟨i, _, _, _, hf, form, rejected, rfl⟩)
      | divide form hd => exact .inr (.inr ⟨i, _, _, _, hf, form, rfl, hd⟩)
    | refused hset => exact .inr ⟨hset, _, rfl⟩
  · obtain ⟨hrej, rfl⟩ := fetched_error hf
    exact .inl ⟨_, hstep, .inr (.inr (.inr (.inl ⟨hrej, rfl⟩)))⟩

end Sys2Proof.Machine
end

section
/-! PROOFS. What a word with the fixed bits of a template decodes to (30_encoding.md R53, R66, R72). -/

namespace Sys2Proof

open Machine Laws

/-- Only the optional templates depend on the parameters (R72). -/
theorem specificTemplates_of_not_pSlti {p : Params} (h : p.pSlti = false) :
    specificTemplates p = specificTemplates Params.standard := by
  unfold specificTemplates
  rw [h]
  rfl

theorem specificTemplates_standard_subset (p : Params) :
    specificTemplates Params.standard ⊆ specificTemplates p := by
  intro t ht
  simp only [specificTemplates, List.mem_append] at ht ⊢
  obtain (hmandatory | hoptional) | hbreak := ht
  · exact .inl (.inl hmandatory)
  · exact absurd hoptional List.not_mem_nil
  · exact .inr hbreak

/-- A template of the table is selected for every word it matches (R53, R68). -/
theorem decodeWord_of_mem {p : Params} {t : Template} {w : Word} (hp : p.or2 = none)
    (hmem : t ∈ specificTemplates p) (hw : w &&& t.mask = t.expected) : decodeWord p w = t.format.build w :=
  (decodeWord_of_or2_none hp w).trans
    (firstMatch_of_pairwise_differ (specificTemplates_pairwise_differ p) hmem ((t.hits_iff_and w).mpr hw))

/-- The fixed bits of an instruction of the standard table select it, its operands the fields of the word. -/
theorem selects_of_wellFormed (i : Instr) (hwf : i.wellFormed Params.standard = true) (hinv : ∀ w, i ≠ .inv w) :
    Selects (fixedBits i).1 (fixedBits i).2 (formatOf i).build := by
  intro p w hp hw
  exact decodeWord_of_mem hp (specificTemplates_standard_subset p (templateOf_mem hwf hinv)) hw

theorem optional_rowsDiffer_standard :
    ∀ t ∈ templatesOptional, ∀ u ∈ specificTemplates Params.standard, rowsDiffer t.row u.row = true := by
  decide

/-- R72: the words of an optional template are its instructions under `P_SLTI`, and invalid without it. -/
theorem decodeWord_of_optional {p : Params} {t : Template} {w : Word} (hp : p.or2 = none)
    (ht : t ∈ templatesOptional) (hw : w &&& t.mask = t.expected) :
    decodeWord p w = if p.pSlti then t.format.build w else .inv w := by
  cases hopt : p.pSlti with
  | true =>
    have hmem : t ∈ specificTemplates p := by simp [specificTemplates, hopt, ht]
    exact decodeWord_of_mem hp hmem hw
  | false =>
    have hmiss : ∀ u ∈ specificTemplates Params.standard, u.hits w = false := fun u hu =>
      Template.not_hits_of_rowsDiffer (optional_rowsDiffer_standard t ht u hu) ((t.hits_iff_and w).mpr hw)
    rw [decodeWord_of_or2_none hp, specificTemplates_of_not_pSlti hopt]
    exact firstMatch_of_all_miss hmiss

end Sys2Proof
end

section
/-! PROOFS. Add, subtract, logic, compare and upper immediates (41_alu.md R100 to R117): each instruction writes one
value back, and that value in arithmetic. -/

namespace Sys2Proof.Machine

/-! ## Writing back (40_step.md R88, R89) -/

theorem writeBack_writesOnly (s : State) (rd : RegIdx) (v : Word) :
    WritesOnly s (s.writeBack rd v) rd v (s.pc + 4) where
  zero   := by simp
  dest   := fun hrd => by rw [writeBack_reg, if_neg hrd, if_pos rfl]
  others := fun r hr hne => by rw [writeBack_reg, if_neg hr, if_neg hne]
  pc     := writeBack_pc s rd v
  memory := fun a => by simp
  status := writeBack_status s rd v
  params := writeBack_params s rd v
  draws  := writeBack_draws s rd v

/-- An instruction whose meaning is to write back `u` yields every value `v` that is equal to it. -/
theorem yields_of_writeBack {i : Instr} {s : State} {rd : RegIdx} {u v : Word}
    (hexec : exec i s = .next (s.writeBack rd u)) (hv : u = v) : Yields i s rd v (s.pc + 4) :=
  ⟨s.writeBack rd u, hexec, hv ▸ writeBack_writesOnly s rd u⟩

/-! ## The values -/

theorem add_eq_ofNat (a b : Word) : a + b = BitVec.ofNat 32 (a.toNat + b.toNat) := by
  rw [BitVec.ofNat_add, BitVec.ofNat_toNat, BitVec.ofNat_toNat, BitVec.setWidth_eq, BitVec.setWidth_eq]

theorem sub_eq_ofInt (a b : Word) : a - b = BitVec.ofInt 32 (a.toInt - b.toInt) := by
  rw [Int.sub_eq_add_neg, BitVec.ofInt_add, BitVec.ofInt_neg, BitVec.ofInt_toInt, BitVec.ofInt_toInt,
    BitVec.sub_eq_add_neg]

theorem add_sext12 (a : Word) (i : BitVec 12) : a + sext12 i = BitVec.ofInt 32 (a.toInt + i.toInt) := by
  rw [← sext12_toInt, BitVec.ofInt_add, BitVec.ofInt_toInt, BitVec.ofInt_toInt]

/-- The operand of `andi`, `ori`, `xori` under each setting of `P_LOGIC_IMM_ZEXT` (R107, D9). -/
theorem logicImm_sext12 (s : State) (i : BitVec 12) :
    s.logicImm (sext12 i) = if s.params.logicImmZext then i.setWidth 32 else i.signExtend 32 := by
  rw [State.logicImm, sext12_and_fff, sext12]

/-- Shifting out the twelve bits of the extension leaves the field above twelve zeros (R112). -/
theorem sext20_shiftLeft_12 (i : BitVec 20) : sext20 i <<< 12 = i ++ 0#12 := by
  apply BitVec.eq_of_getLsbD_eq
  intro k hk
  refine Eq.trans ?_ BitVec.getLsbD_append.symm
  by_cases hlow : k < 12
  · simp [hlow]
  · have hfield : k - 12 < 20 := by omega
    simp [sext20, BitVec.getElem_signExtend, hk, hlow, hfield]

theorem boolWord_ltSigned_sext12 (a : Word) (i : BitVec 12) :
    boolWord (ltSigned a (sext12 i)) = if a.toInt < i.toInt then 1 else 0 := by
  rw [boolWord_ltSigned, sext12_toInt]

/-! ## The obligations -/

/-- Settles O11: the sum of the numbers and the difference of the integers, modulo 2^32. -/
theorem addAndSubtract : Obligations.AddAndSubtract := by
  unfold Obligations.AddAndSubtract
  refine ⟨selects_of_wellFormed (.addW 0 0 0) rfl nofun, selects_of_wellFormed (.subW 0 0 0) rfl nofun,
    fun rd rj rk s => ⟨?_, ?_⟩⟩
  · exact yields_of_writeBack rfl (add_eq_ofNat (s.reg rj) (s.reg rk))
  · exact yields_of_writeBack rfl (sub_eq_ofInt (s.reg rj) (s.reg rk))

/-- Settles O12: the values are the words' connectives, which act bit by bit. -/
theorem bitwiseLogic : Obligations.BitwiseLogic := by
  unfold Obligations.BitwiseLogic
  refine ⟨selects_of_wellFormed (.nor 0 0 0) rfl nofun, selects_of_wellFormed (.and 0 0 0) rfl nofun,
    selects_of_wellFormed (.or 0 0 0) rfl nofun, selects_of_wellFormed (.xor 0 0 0) rfl nofun, fun rd rj rk s => ?_⟩
  refine ⟨~~~(s.reg rj ||| s.reg rk), s.reg rj &&& s.reg rk, s.reg rj ||| s.reg rk, s.reg rj ^^^ s.reg rk,
    fun b hb => ⟨?_, BitVec.getLsbD_and, BitVec.getLsbD_or, BitVec.getLsbD_xor⟩, yields_of_writeBack rfl rfl,
    yields_of_writeBack rfl rfl, yields_of_writeBack rfl rfl, yields_of_writeBack rfl rfl⟩
  rw [BitVec.getLsbD_not, BitVec.getLsbD_or, decide_eq_true hb, Bool.true_and]

/-- Settles O13: the compares of the register values as integers and as numbers. -/
theorem setOnLessThan : Obligations.SetOnLessThan := by
  unfold Obligations.SetOnLessThan
  refine ⟨selects_of_wellFormed (.slt 0 0 0) rfl nofun, selects_of_wellFormed (.sltu 0 0 0) rfl nofun,
    fun rd rj rk s => ⟨?_, ?_⟩⟩
  · exact yields_of_writeBack rfl (boolWord_ltSigned (s.reg rj) (s.reg rk))
  · exact yields_of_writeBack rfl (boolWord_ltUnsigned (s.reg rj) (s.reg rk))

/-- Settles O14: sign extension keeps the integer that the field stands for. -/
theorem addImmediate : Obligations.AddImmediate := by
  unfold Obligations.AddImmediate
  exact ⟨selects_of_wellFormed (.addiW 0 0 0) rfl nofun,
    fun rd rj si12 s => yields_of_writeBack rfl (add_sext12 (s.reg rj) si12)⟩

/-- Settles O15: under each setting the operand of the three actions is the field, extended as the setting says. -/
theorem logicImmediate : Obligations.LogicImmediate := by
  unfold Obligations.LogicImmediate
  refine ⟨selects_of_wellFormed (.andi 0 0 0) rfl nofun, selects_of_wellFormed (.ori 0 0 0) rfl nofun,
    selects_of_wellFormed (.xori 0 0 0) rfl nofun, fun rd rj ui12 s imm himm => ?_⟩
  have hop : s.logicImm (sext12 ui12) = imm := (logicImm_sext12 s ui12).trans himm.symm
  refine ⟨?_, ?_, ?_⟩
  · exact yields_of_writeBack rfl (congrArg (s.reg rj &&& ·) hop)
  · exact yields_of_writeBack rfl (congrArg (s.reg rj ||| ·) hop)
  · exact yields_of_writeBack rfl (congrArg (s.reg rj ^^^ ·) hop)

/-- Settles O16: both instructions shift the field above twelve zeros; `pcaddu12i` adds the pc of the instruction. -/
theorem upperImmediate : Obligations.UpperImmediate := by
  unfold Obligations.UpperImmediate
  refine ⟨selects_of_wellFormed (.lu12iW 0 0) rfl nofun, selects_of_wellFormed (.pcaddu12i 0 0) rfl nofun,
    fun rd si20 s => ⟨?_, ?_⟩⟩
  · exact yields_of_writeBack rfl (sext20_shiftLeft_12 si20)
  · exact yields_of_writeBack rfl (congrArg (s.pc + ·) (sext20_shiftLeft_12 si20))

/-- Settles O17: the words are those of the two optional templates; the compares take the sign-extended field. -/
theorem optionalCompareImmediate : Obligations.OptionalCompareImmediate := by
  unfold Obligations.OptionalCompareImmediate
  refine ⟨fun p w hp => ⟨?_, ?_⟩, fun rd rj si12 s => ⟨?_, ?_⟩⟩
  · exact decodeWord_of_optional (t := templateOf (.slti 0 0 0)) hp List.mem_cons_self
  · exact decodeWord_of_optional (t := templateOf (.sltui 0 0 0)) hp (List.mem_cons_of_mem _ List.mem_cons_self)
  · exact yields_of_writeBack rfl (boolWord_ltSigned_sext12 (s.reg rj) si12)
  · exact yields_of_writeBack rfl (boolWord_ltUnsigned (s.reg rj) (sext12 si12))

end Sys2Proof.Machine
end

section
/-! PROOFS. Shifts (42_shift.md R120 to R127): the three shifts in arithmetic, their amount, and the immediate forms
that have a meaning under `P_SHIFT_IMM_HI`. -/

namespace Sys2Proof.Machine

/-! ## The values, for every amount -/

theorem shiftLeft_eq_ofNat (a : Word) (n : Nat) : a <<< n = BitVec.ofNat 32 (a.toNat * 2 ^ n) := by
  apply BitVec.eq_of_toNat_eq
  rw [BitVec.toNat_shiftLeft, Nat.shiftLeft_eq, BitVec.toNat_ofNat]

theorem ushiftRight_eq_ofNat (a : Word) (n : Nat) : a >>> n = BitVec.ofNat 32 (a.toNat / 2 ^ n) := by
  rw [← Nat.shiftRight_eq_div_pow, ← BitVec.toNat_ushiftRight, BitVec.ofNat_toNat, BitVec.setWidth_eq]

/-- `/` on the integers rounds down for a positive divisor: the floor of R123. -/
theorem sshiftRight_eq_ofInt (a : Word) (n : Nat) : a.sshiftRight n = BitVec.ofInt 32 (a.toInt / 2 ^ n) := by
  rw [← BitVec.ofInt_toInt (x := a.sshiftRight n), BitVec.toInt_sshiftRight, Int.shiftRight_eq_div_pow, Nat.cast_pow,
    Nat.cast_ofNat]

/-! ## The immediate forms (R120, D10) -/

theorem shiftImm_completes {s : State} {ui5 : BitVec 5} (h : s.params.shiftImmHi = .mask ∨ ui5.toNat < 16)
    (rd : RegIdx) (v : Word) : s.shiftImm rd ui5 v = .next (s.writeBack rd v) := by
  obtain ⟨-, hnext⟩ | ⟨⟨hrefuse, hmsb⟩, -⟩ := shiftImm_cases s rd ui5 v
  · exact hnext
  · obtain hmask | hlow := h
    · cases hmask.symm.trans hrefuse
    · exact absurd ((amount_msb_iff ui5).mp hmsb) (Nat.not_le.mpr hlow)

/-! ## The obligations -/

/-- Settles O19: the amount is the value of `x[rk]` modulo 32, and each shift is its arithmetic at every amount. -/
theorem registerShifts : Obligations.RegisterShifts := by
  unfold Obligations.RegisterShifts
  refine ⟨selects_of_wellFormed (.sllW 0 0 0) rfl nofun, selects_of_wellFormed (.srlW 0 0 0) rfl nofun,
    selects_of_wellFormed (.sraW 0 0 0) rfl nofun, fun rd rj rk s n hn => ?_⟩
  obtain rfl : n = shiftAmount (s.reg rk) := hn.trans (shiftAmount_eq (s.reg rk)).symm
  refine ⟨?_, ?_, ?_⟩
  · exact yields_of_writeBack rfl (shiftLeft_eq_ofNat (s.reg rj) _)
  · exact yields_of_writeBack rfl (ushiftRight_eq_ofNat (s.reg rj) _)
  · exact yields_of_writeBack rfl (sshiftRight_eq_ofInt (s.reg rj) _)

/-- Settles O20: an immediate shift with a meaning completes, and its amount is the field whatever the sign extension
put above it. -/
theorem immediateShifts : Obligations.ImmediateShifts := by
  unfold Obligations.ImmediateShifts
  refine ⟨selects_of_wellFormed (.slliW 0 0 0) rfl nofun, selects_of_wellFormed (.srliW 0 0 0) rfl nofun,
    selects_of_wellFormed (.sraiW 0 0 0) rfl nofun, fun rd rj ui5 s hmeaning => ?_⟩
  have hnext := shiftImm_completes hmeaning rd
  rw [← shiftAmount_sext5 ui5]
  refine ⟨?_, ?_, ?_⟩
  · exact yields_of_writeBack (hnext _) (shiftLeft_eq_ofNat (s.reg rj) _)
  · exact yields_of_writeBack (hnext _) (ushiftRight_eq_ofNat (s.reg rj) _)
  · exact yields_of_writeBack (hnext _) (sshiftRight_eq_ofInt (s.reg rj) _)

end Sys2Proof.Machine
end

section
/-! PROOFS. Multiplies (43_muldiv.md R131 to R133): the 64-bit products of the extended operands are exact, and each
multiply writes one of their halves. -/

namespace Sys2Proof.Machine

/-! ## The products are exact -/

/-- The signed product of two words fits 64 bits (R132). -/
theorem toInt_mul_signExtend (a b : Word) :
    (a.signExtend 64 * b.signExtend 64).toInt = a.toInt * b.toInt := by
  have hlow : -2 ^ 62 ≤ a.toInt * b.toInt := BitVec.le_toInt_mul_toInt
  have hhigh : a.toInt * b.toInt ≤ 2 ^ 62 := BitVec.toInt_mul_toInt_le
  rw [BitVec.toInt_mul, BitVec.toInt_signExtend_of_le (by decide), BitVec.toInt_signExtend_of_le (by decide)]
  exact Int.bmod_eq_of_le (by omega) (by omega)

/-- The unsigned product of two words fits 64 bits (R133). -/
theorem toNat_mul_setWidth (a b : Word) : (a.setWidth 64 * b.setWidth 64).toNat = a.toNat * b.toNat := by
  have hfits : (a.setWidth 64).toNat * (b.setWidth 64).toNat < 2 ^ 64 := by
    rw [BitVec.toNat_setWidth_of_le (by decide), BitVec.toNat_setWidth_of_le (by decide)]
    calc a.toNat * b.toNat < 2 ^ 32 * 2 ^ 32 := Nat.mul_lt_mul'' a.isLt b.isLt
      _ = 2 ^ 64 := rfl
  rw [BitVec.toNat_mul_of_lt hfits, BitVec.toNat_setWidth_of_le (by decide), BitVec.toNat_setWidth_of_le (by decide)]

/-! ## The halves of 64 bits, as numbers and as integers -/

theorem low_eq_ofNat (p : BitVec 64) : p.extractLsb' 0 32 = BitVec.ofNat 32 p.toNat := rfl

theorem low_eq_ofInt (p : BitVec 64) : p.extractLsb' 0 32 = BitVec.ofInt 32 p.toInt := by
  apply BitVec.eq_of_toNat_eq
  rw [low_eq_ofNat, BitVec.toNat_ofNat, BitVec.toNat_ofInt, BitVec.toInt_eq_toNat_cond]
  split <;> omega

theorem high_eq_ofNat (p : BitVec 64) : p.extractLsb' 32 32 = BitVec.ofNat 32 (p.toNat / 2 ^ 32) := by
  rw [← Nat.shiftRight_eq_div_pow, BitVec.extractLsb']

/-- The upper 32 bits are the floor of the integer by 2^32, modulo 2^32 (R132). -/
theorem high_eq_ofInt (p : BitVec 64) : p.extractLsb' 32 32 = BitVec.ofInt 32 (p.toInt / 2 ^ 32) := by
  apply BitVec.eq_of_toNat_eq
  rw [high_eq_ofNat, BitVec.toNat_ofNat, BitVec.toNat_ofInt, BitVec.toInt_eq_toNat_cond]
  split <;> omega

/-! ## The values of the three multiplies -/

theorem mulLow_eq_low (a b : Word) : mulLow a b = (a.setWidth 64 * b.setWidth 64).extractLsb' 0 32 := by
  rw [low_eq_ofNat, toNat_mul_setWidth, mulLow]

theorem mulHighSigned_eq_high (a b : Word) :
    mulHighSigned a b = (a.signExtend 64 * b.signExtend 64).extractLsb' 32 32 := by
  rw [high_eq_ofInt, toInt_mul_signExtend, mulHighSigned]

theorem mulHighUnsigned_eq_high (a b : Word) :
    mulHighUnsigned a b = (a.setWidth 64 * b.setWidth 64).extractLsb' 32 32 := by
  rw [high_eq_ofNat, toNat_mul_setWidth, mulHighUnsigned]

/-- Modulo 2^32 the signed and the unsigned product are the product of the words (R131). -/
theorem low_signed_eq_low_unsigned (a b : Word) :
    (a.signExtend 64 * b.signExtend 64).extractLsb' 0 32 = (a.setWidth 64 * b.setWidth 64).extractLsb' 0 32 := by
  calc (a.signExtend 64 * b.signExtend 64).extractLsb' 0 32
      = BitVec.ofInt 32 a.toInt * BitVec.ofInt 32 b.toInt := by
        rw [low_eq_ofInt, toInt_mul_signExtend, BitVec.ofInt_mul]
    _ = BitVec.ofNat 32 a.toNat * BitVec.ofNat 32 b.toNat := by
        simp only [BitVec.ofInt_toInt, BitVec.ofNat_toNat, BitVec.setWidth_eq]
    _ = (a.setWidth 64 * b.setWidth 64).extractLsb' 0 32 := by
        rw [low_eq_ofNat, toNat_mul_setWidth, BitVec.ofNat_mul]

/-! ## The obligation -/

/-- Settles O22: the two exact products have the low half in common, and the high half is the floor
that `mulh.w` and `mulh.wu` keep. -/
theorem multiply : Obligations.Multiply := by
  unfold Obligations.Multiply
  refine ⟨selects_of_wellFormed (.mulW 0 0 0) rfl nofun, selects_of_wellFormed (.mulhW 0 0 0) rfl nofun,
    selects_of_wellFormed (.mulhWu 0 0 0) rfl nofun, ?_⟩
  rintro rd rj rk s _ _ rfl rfl
  refine ⟨toInt_mul_signExtend _ _, toNat_mul_setWidth _ _, low_signed_eq_low_unsigned _ _, ?_, ?_, ?_⟩
  · exact yields_of_writeBack rfl (mulLow_eq_low _ _)
  · exact yields_of_writeBack rfl (mulHighSigned_eq_high _ _)
  · exact yields_of_writeBack rfl (mulHighUnsigned_eq_high _ _)

end Sys2Proof.Machine
end

section
/-! PROOFS. Divides with a value (43_muldiv.md R134 to R137): the exact results are the quotient and remainder of words,
outside the cases of R138 a divide writes them, and they recombine to the dividend. -/

namespace Sys2Proof.Machine

/-! ## The exact results -/

theorem divExact_divW (a b : Word) : divExact .divW a b = a.sdiv b := by
  apply BitVec.eq_of_toInt_eq
  rw [BitVec.toInt_sdiv]
  exact BitVec.toInt_ofInt _

/-- The remainder always fits 32 bits, at the overflow pair too. -/
theorem toInt_srem_eq_sub (a b : Word) : (a.srem b).toInt = a.toInt - a.toInt.tdiv b.toInt * b.toInt := by
  rw [BitVec.toInt_srem, Int.tmod_def, mul_comm]

theorem divExact_modW (a b : Word) : divExact .modW a b = a.srem b := by
  rw [divExact, ← toInt_srem_eq_sub, BitVec.ofInt_toInt]

theorem divExact_divWu (a b : Word) : divExact .divWu a b = a / b := BitVec.udiv_def.symm

theorem divExact_modWu (a b : Word) : divExact .modWu a b = a % b := BitVec.umod_def.symm

/-! ## The signed quotient and remainder as integers (R134, R135, D13) -/

/-- Outside the overflow pair the truncated quotient fits 32 bits. -/
theorem toInt_sdiv_of_not_overflow {a b : Word} (h : ¬(a = 0x80000000 ∧ b = 0xFFFFFFFF)) :
    (a.sdiv b).toInt = a.toInt.tdiv b.toInt :=
  BitVec.toInt_sdiv_of_ne_or_ne a b (not_and_or.mp h)

theorem natAbs_srem_lt (a : Word) {b : Word} (hb : b ≠ 0) : (a.srem b).toInt.natAbs < b.toInt.natAbs := by
  have hpos : 0 < b.toInt.natAbs := Int.natAbs_pos.mpr fun h0 => hb (BitVec.toInt_inj.mp h0)
  rw [BitVec.toInt_srem, Int.natAbs_tmod]
  exact Nat.mod_lt _ hpos

theorem srem_zero_or_sign (a b : Word) : (a.srem b).toInt = 0 ∨ ((a.srem b).toInt < 0 ↔ a.toInt < 0) := by
  rw [BitVec.toInt_srem]
  by_cases hdvd : b.toInt ∣ a.toInt
  · exact .inl (Int.tmod_eq_zero_of_dvd hdvd)
  · right
    rw [← Int.sign_eq_neg_one_iff_neg, Int.sign_tmod, if_neg hdvd, Int.sign_eq_neg_one_iff_neg]

/-! ## A divide that completes with them -/

theorem divOverflows_eq_false {a b : Word} (op : DivOp) (h : ¬(a = 0x80000000 ∧ b = 0xFFFFFFFF)) :
    divOverflows op a b = false :=
  Bool.eq_false_iff.mpr fun hover => h ((divOverflows_iff op a b).mp hover).2

theorem divide_exact {op : DivOp} {a b : Word} (s : State) (rd : RegIdx) (hb : b ≠ 0)
    (hover : divOverflows op a b = false) : s.divide op rd a b = s.writeBack rd (divExact op a b) := by
  rw [State.divide, if_neg hb, hover]
  rfl

/-- An instruction whose meaning is a divide with a value yields every `v` that is equal to the exact result. -/
theorem yields_of_divide {i : Instr} {s : State} {op : DivOp} {rd : RegIdx} {a b v : Word}
    (hexec : exec i s = .next (s.divide op rd a b)) (hb : b ≠ 0) (hover : divOverflows op a b = false)
    (hv : divExact op a b = v) : Yields i s rd v (s.pc + 4) :=
  yields_of_writeBack (hexec.trans (congrArg _ (divide_exact s rd hb hover))) hv

/-- The exact result is what a divide with a value leaves in a destination other than register 0. -/
theorem divide_dest {op : DivOp} {a b : Word} (s : State) {rd : RegIdx} (hrd : rd ≠ 0) (hb : b ≠ 0)
    (hover : divOverflows op a b = false) : (s.divide op rd a b).reg rd = divExact op a b := by
  rw [divide_exact s rd hb hover]
  exact (writeBack_writesOnly s rd _).dest hrd

/-! ## Recombination -/

/-- Truncation keeps the dividend modulo 2^32, at the overflow pair too. -/
theorem signed_recombine (a b : Word) : divExact .divW a b * b + divExact .modW a b = a := by
  have hexact : (a.toInt.tdiv b.toInt) * b.toInt + (a.toInt - a.toInt.tdiv b.toInt * b.toInt) = a.toInt :=
    add_sub_cancel _ _
  calc divExact .divW a b * b + divExact .modW a b
      = divExact .divW a b * BitVec.ofInt 32 b.toInt + divExact .modW a b := by rw [BitVec.ofInt_toInt]
    _ = BitVec.ofInt 32 a.toInt := by rw [divExact, divExact, ← BitVec.ofInt_mul, ← BitVec.ofInt_add, hexact]
    _ = a := BitVec.ofInt_toInt

theorem unsigned_recombine (a b : Word) : divExact .divWu a b * b + divExact .modWu a b = a := by
  calc divExact .divWu a b * b + divExact .modWu a b
      = divExact .divWu a b * BitVec.ofNat 32 b.toNat + divExact .modWu a b := by
        rw [BitVec.ofNat_toNat, BitVec.setWidth_eq]
    _ = BitVec.ofNat 32 a.toNat := by
        rw [divExact, divExact, ← BitVec.ofNat_mul, ← BitVec.ofNat_add, Nat.div_add_mod']
    _ = a := by rw [BitVec.ofNat_toNat, BitVec.setWidth_eq]

/-! ## The obligations -/

/-- Settles O23: outside R138 the two divides write the words' truncated quotient and its remainder. -/
theorem signedDivide : Obligations.SignedDivide := by
  unfold Obligations.SignedDivide
  refine ⟨selects_of_wellFormed (.divW 0 0 0) rfl nofun, selects_of_wellFormed (.modW 0 0 0) rfl nofun,
    fun rd rj rk s hrk hpair => ?_⟩
  have hquot := toInt_sdiv_of_not_overflow hpair
  refine ⟨(s.reg rj).sdiv (s.reg rk), (s.reg rj).srem (s.reg rk), hquot, ?_, natAbs_srem_lt _ hrk,
    srem_zero_or_sign _ _, ?_, ?_⟩
  · rw [hquot, toInt_srem_eq_sub]
  · exact yields_of_divide rfl hrk (divOverflows_eq_false .divW hpair) (divExact_divW _ _)
  · exact yields_of_divide rfl hrk (divOverflows_eq_false .modW hpair) (divExact_modW _ _)

/-- Settles O24: the unsigned divides have a value for every divisor but 0, with no overflow pair to leave out. -/
theorem unsignedDivide : Obligations.UnsignedDivide := by
  unfold Obligations.UnsignedDivide
  refine ⟨selects_of_wellFormed (.divWu 0 0 0) rfl nofun, selects_of_wellFormed (.modWu 0 0 0) rfl nofun,
    fun rd rj rk s hrk => ?_⟩
  have hpos : 0 < (s.reg rk).toNat := Nat.pos_of_ne_zero fun h0 => hrk (BitVec.eq_of_toNat_eq h0)
  refine ⟨s.reg rj / s.reg rk, s.reg rj % s.reg rk, BitVec.toNat_udiv, BitVec.toNat_umod, ?_, ?_, ?_⟩
  · exact BitVec.toNat_umod.trans_lt (Nat.mod_lt _ hpos)
  · exact yields_of_divide rfl hrk rfl (divExact_divWu _ _)
  · exact yields_of_divide rfl hrk rfl (divExact_modWu _ _)

/-- Settles O26: both runs complete with the exact results, which recombine. -/
theorem quotientAndRemainderRecombine : Obligations.QuotientAndRemainderRecombine := by
  unfold Obligations.QuotientAndRemainderRecombine
  rintro rd rj rk s tq tr hrd hrk (⟨hpair, hq, hr⟩ | ⟨hq, hr⟩) <;> cases hq <;> cases hr
  case inl =>
    have hdest := fun op => divide_dest s hrd hrk (divOverflows_eq_false op hpair)
    exact (congrArg₂ (· * s.reg rk + ·) (hdest .divW) (hdest .modW)).trans (signed_recombine _ _)
  case inr =>
    have hquot := divide_dest (op := .divWu) (a := s.reg rj) s hrd hrk rfl
    have hrem := divide_dest (op := .modWu) (a := s.reg rj) s hrd hrk rfl
    exact (congrArg₂ (· * s.reg rk + ·) hquot hrem).trans (unsigned_recombine _ _)

end Sys2Proof.Machine
end

section
/-! PROOFS. Divides without a value (43_muldiv.md R138, R139): divisor zero and the overflow pair under each policy. -/

namespace Sys2Proof.Machine

/-! ## The result under each policy -/

theorem divide_zero (s : State) (op : DivOp) (rd : RegIdx) (a : Word) :
    s.divide op rd a 0 = s.divByZero op rd a := if_pos rfl

theorem divide_overflow {op : DivOp} {a b : Word} (s : State) (rd : RegIdx) (hb : b ≠ 0)
    (hover : divOverflows op a b = true) : s.divide op rd a b = s.divOverflow op rd := by
  rw [State.divide, if_neg hb, if_pos hover]

theorem divByZero_fault {s : State} (h : s.params.div0 = .fault) (op : DivOp) (rd : RegIdx) (a : Word) :
    s.divByZero op rd a = faultedState s (.divide s.pc) := by
  rw [State.divByZero, h]
  rfl

theorem divByZero_draw {s : State} (h : s.params.div0 = .draw) (op : DivOp) (rd : RegIdx) (a : Word) :
    s.divByZero op rd a = s.drawInto rd := by
  rw [State.divByZero, h]

theorem divByZero_function {s : State} (h : s.params.div0 = .function) (op : DivOp) (rd : RegIdx) (a : Word) :
    s.divByZero op rd a = s.writeBack rd (Config.divByZero op a) := by
  rw [State.divByZero, h]

theorem divOverflow_fault {s : State} (h : s.params.divOvf = .fault) (op : DivOp) (rd : RegIdx) :
    s.divOverflow op rd = faultedState s (.divide s.pc) := by
  rw [State.divOverflow, h]
  rfl

theorem divOverflow_draw {s : State} (h : s.params.divOvf = .draw) (op : DivOp) (rd : RegIdx) :
    s.divOverflow op rd = s.drawInto rd := by
  rw [State.divOverflow, h]

theorem divOverflow_wrap {s : State} (h : s.params.divOvf = .wrap) (op : DivOp) (rd : RegIdx) :
    s.divOverflow op rd = s.writeBack rd (divWrapped op) := by
  rw [State.divOverflow, h]

/-- Apart from the counter, a draw writes back the free value it takes. -/
theorem draws_of_drawInto {i : Instr} {s : State} {rd : RegIdx} (hexec : exec i s = .next (s.drawInto rd)) :
    ∃ t, exec i s = .next { t with draws := s.draws + 1 }
      ∧ WritesOnly s t rd (Config.draw s.draws) (s.pc + 4) :=
  ⟨s.writeBack rd (Config.draw s.draws), hexec, writeBack_writesOnly s rd _⟩

/-! ## The obligation -/

/-- Settles O25: the four divides share the answer to divisor zero, and the signed two the answer to the
overflow pair. -/
theorem divisionWithoutValue : Obligations.DivisionWithoutValue := by
  unfold Obligations.DivisionWithoutValue
  refine ⟨fun rd rj rk s hrk c hc => ?_, fun rd rj rk s hrj hrk c hc => ?_, rfl, rfl⟩
  · have hdivide : exec c.2 s = .next (s.divide c.1 rd (s.reg rj) (s.reg rk)) := by
      simp only [List.mem_cons, List.not_mem_nil, or_false] at hc
      obtain rfl | rfl | rfl | rfl := hc <;> rfl
    have hexec : exec c.2 s = .next (s.divByZero c.1 rd (s.reg rj)) := by rw [hdivide, hrk, divide_zero]
    refine ⟨fun hfault => ?_, fun hdraw => ?_, fun hfunction => ?_⟩
    · rw [hexec, divByZero_fault hfault]
    · exact draws_of_drawInto (hexec.trans (congrArg _ (divByZero_draw hdraw c.1 rd _)))
    · exact yields_of_writeBack (hexec.trans (congrArg _ (divByZero_function hfunction c.1 rd _))) rfl
  · have hdivide : ∃ op, divOverflows op (s.reg rj) (s.reg rk) = true ∧ divWrapped op = c.1
        ∧ exec c.2 s = .next (s.divide op rd (s.reg rj) (s.reg rk)) := by
      simp only [List.mem_cons, List.not_mem_nil, or_false] at hc
      obtain rfl | rfl := hc
      · exact ⟨.divW, (divOverflows_iff ..).mpr ⟨.inl rfl, hrj, hrk⟩, rfl, rfl⟩
      · exact ⟨.modW, (divOverflows_iff ..).mpr ⟨.inr rfl, hrj, hrk⟩, rfl, rfl⟩
    obtain ⟨op, hover, hwrapped, hdivide⟩ := hdivide
    have hne : s.reg rk ≠ 0 := by rw [hrk]; decide
    have hexec : exec c.2 s = .next (s.divOverflow op rd) := by rw [hdivide, divide_overflow s rd hne hover]
    refine ⟨fun hfault => ?_, fun hdraw => ?_, fun hwrap => ?_⟩
    · rw [hexec, divOverflow_fault hfault]
    · exact draws_of_drawInto (hexec.trans (congrArg _ (divOverflow_draw hdraw op rd)))
    · exact yields_of_writeBack (hexec.trans (congrArg _ (divOverflow_wrap hwrap op rd))) hwrapped

end Sys2Proof.Machine
end

section
/-! PROOFS. The bytes of a request (20_memory.md R33 to R35, R48): their addresses modulo 2^32, what a read request
makes of them, and what a write request leaves in each. -/

namespace Sys2Proof.Machine

/-! ## The addresses of the bytes -/

theorem byteAddr_zero (a : Word) : byteAddr a 0 = a.toNat := congrArg BitVec.toNat (add_zero a)

theorem byteAddr_succ (a : Word) (i : Nat) : byteAddr a (i + 1) = byteAddr (a + 1) i := by
  rw [byteAddr, byteAddr, Nat.add_comm, BitVec.ofNat_add, ← BitVec.add_assoc]
  rfl

/-- A request of at most 2^32 bytes does not come back to its first byte. -/
theorem byteAddr_succ_ne {i : Nat} (a : Word) (hi : i + 1 < 2 ^ 32) : byteAddr a (i + 1) ≠ a.toNat := by
  intro h
  have hzero : BitVec.ofNat 32 (i + 1) = 0 := add_eq_left.mp (BitVec.eq_of_toNat_eq h)
  exact Nat.succ_ne_zero i ((Nat.mod_eq_of_lt hi).symm.trans (congrArg BitVec.toNat hzero))

/-! ## Read requests -/

theorem setWidth_readRaw_byte (s : State) (a : Word) : (s.readRaw a 1).setWidth 8 = byteOf s a 0 := by
  simp [State.readRaw, byteOf]

theorem setWidth_readRaw_half (s : State) (a : Word) :
    (s.readRaw a 2).setWidth 16 = byteOf s a 1 ++ byteOf s a 0 := by
  have hjoin : s.readRaw a 2 = (byteOf s a 1 ++ byteOf s a 0).setWidth 32 := by
    rw [← setWidth_or_shiftLeft_eight]
    simp [State.readRaw, byteOf]
  rw [hjoin, BitVec.setWidth_setWidth_of_le _ (by decide), BitVec.setWidth_eq]

/-! ## Write requests -/

theorem setWidth_eight_eq_extractLsb' (v : Word) : v.setWidth 8 = v.extractLsb' 0 8 :=
  BitVec.setWidth_eq_extractLsb' (by decide)

theorem extractLsb'_ushiftRight_eight (v : Word) (i : Nat) :
    (v >>> 8).extractLsb' (8 * i) 8 = v.extractLsb' (8 * (i + 1)) 8 := by
  ext k hk
  simp [Nat.mul_add, Nat.add_comm, Nat.add_left_comm]

/-- A write request leaves byte `i` of the value at the address of its byte `i`. -/
theorem memRead_writeRaw_byteAddr {n i : Nat} (m : Memory) (a : Word) (v : Word) (hn : n ≤ 2 ^ 32) (hi : i < n) :
    memRead (writeRaw m a n v) (byteAddr a i) = some (v.extractLsb' (8 * i) 8) := by
  induction n generalizing m a v i with
  | zero => exact absurd hi (Nat.not_lt_zero i)
  | succ n ih =>
    rw [writeRaw]
    cases i with
    | zero =>
      have hlater : ∀ k, k < n → byteAddr a 0 ≠ byteAddr (a + 1) k := fun k hk => by
        rw [byteAddr_zero, ← byteAddr_succ]
        exact (byteAddr_succ_ne a (by omega)).symm
      rw [memRead_writeRaw_other _ _ _ _ _ hlater, byteAddr_zero, memRead_memWrite_same,
        setWidth_eight_eq_extractLsb']
    | succ i =>
      rw [byteAddr_succ, ih _ _ _ (by omega) (by omega), extractLsb'_ushiftRight_eight]

end Sys2Proof.Machine
end

section
/-! PROOFS. Loads and stores (44_loadstore.md R145 to R156): the value of each load, the bytes of each store, and the
`MemFault` of a request the memory does not admit (20_memory.md R38). -/

namespace Sys2Proof.Machine

/-! ## The values of the loads (R156) -/

theorem sextByte_readRaw (s : State) (a : Word) : sextByte (s.readRaw a 1) = (byteOf s a 0).signExtend 32 :=
  congrArg (BitVec.signExtend 32) (setWidth_readRaw_byte s a)

theorem zextByte_readRaw (s : State) (a : Word) : zextByte (s.readRaw a 1) = (byteOf s a 0).setWidth 32 :=
  congrArg (BitVec.setWidth 32) (setWidth_readRaw_byte s a)

theorem sextHalf_readRaw (s : State) (a : Word) :
    sextHalf (s.readRaw a 2) = (byteOf s a 1 ++ byteOf s a 0).signExtend 32 :=
  congrArg (BitVec.signExtend 32) (setWidth_readRaw_half s a)

theorem zextHalf_readRaw (s : State) (a : Word) :
    zextHalf (s.readRaw a 2) = (byteOf s a 1 ++ byteOf s a 0).setWidth 32 :=
  congrArg (BitVec.setWidth 32) (setWidth_readRaw_half s a)

/-! ## A load, admitted or not -/

/-- An instruction whose meaning is an admitted load yields every `v` that is equal to its extended raw bits. -/
theorem yields_of_loadInto {i : Instr} {s : State} {w : Width} {f : Word → Word} {rd : RegIdx} {ea v : Word}
    (hexec : exec i s = .next (s.loadInto w f rd ea)) (hadm : s.admits ea w .load = true)
    (hv : f (s.readRaw ea (widthBytes w)) = v) : Yields i s rd v (s.pc + 4) :=
  yields_of_writeBack (hexec.trans (congrArg _ (if_pos hadm))) hv

theorem loadInto_rejected {s : State} {w : Width} {ea : Word} (hrej : s.admits ea w .load = false)
    (f : Word → Word) (rd : RegIdx) : s.loadInto w f rd ea = faultedState s (.memory ea w .load) :=
  if_neg (Bool.eq_false_iff.mp hrej)

/-! ## A store, admitted or not -/

/-- A write request of at most 2^32 bytes that retires writes its bytes and no other. -/
theorem store_retire_storesOnly {n : Nat} (hn : n ≤ 2 ^ 32) (s : State) (ea v : Word) :
    StoresOnly s ((s.store ea n v).retire s.snpc) ea n v where
  zero   := by simp
  others := fun r hr => by rw [retire_reg, if_neg hr, store_reg]
  pc     := retire_pc _ _
  bytes  := fun _ hi => memRead_writeRaw_byteAddr s.mem ea v hn hi
  frame  := fun a ha => memRead_writeRaw_other s.mem ea n v a ha
  status := by simp
  params := by simp
  draws  := by simp

theorem widthBytes_le_four (w : Width) : widthBytes w ≤ 4 := by
  cases w <;> decide

theorem storesOnly_of_storeFrom {i : Instr} {s : State} {w : Width} {ea v : Word}
    (hexec : exec i s = .next (s.storeFrom w ea v)) (hadm : s.admits ea w .store = true) :
    ∃ t, exec i s = .next t ∧ StoresOnly s t ea (widthBytes w) v :=
  ⟨_, hexec.trans (congrArg _ (if_pos hadm)),
    store_retire_storesOnly ((widthBytes_le_four w).trans (by decide)) s ea v⟩

theorem storeFrom_rejected {s : State} {w : Width} {ea : Word} (hrej : s.admits ea w .store = false) (v : Word) :
    s.storeFrom w ea v = faultedState s (.memory ea w .store) :=
  if_neg (Bool.eq_false_iff.mp hrej)

/-! ## The obligations -/

/-- Settles O27: where the memory admits its request, a load writes back the bytes joined and extended; elsewhere the
five loads share the fault. -/
theorem loadValues : Obligations.LoadValues := by
  unfold Obligations.LoadValues
  refine ⟨selects_of_wellFormed (.ldB 0 0 0) rfl nofun, selects_of_wellFormed (.ldH 0 0 0) rfl nofun,
    selects_of_wellFormed (.ldW 0 0 0) rfl nofun, selects_of_wellFormed (.ldBu 0 0 0) rfl nofun,
    selects_of_wellFormed (.ldHu 0 0 0) rfl nofun, ?_⟩
  rintro rd rj si12 s ea rfl
  refine ⟨fun hadm => ⟨?_, ?_⟩, fun hadm => ⟨?_, ?_⟩, fun hadm => ?_, fun hrej => ⟨?_, ?_⟩, fun hrej => ⟨?_, ?_⟩,
    fun hrej => ?_⟩
  · exact yields_of_loadInto rfl hadm (sextByte_readRaw s _)
  · exact yields_of_loadInto rfl hadm (zextByte_readRaw s _)
  · exact yields_of_loadInto rfl hadm (sextHalf_readRaw s _)
  · exact yields_of_loadInto rfl hadm (zextHalf_readRaw s _)
  · exact yields_of_loadInto rfl hadm (readRaw_word_eq_wordOfBytes s _)
  · exact congrArg _ (loadInto_rejected hrej sextByte rd)
  · exact congrArg _ (loadInto_rejected hrej zextByte rd)
  · exact congrArg _ (loadInto_rejected hrej sextHalf rd)
  · exact congrArg _ (loadInto_rejected hrej zextHalf rd)
  · exact congrArg _ (loadInto_rejected hrej id rd)

/-- Settles O28: where the memory admits its request, a store leaves each byte of the data register at its address;
elsewhere the three stores share the fault. -/
theorem storedBytes : Obligations.StoredBytes := by
  unfold Obligations.StoredBytes
  refine ⟨selects_of_wellFormed (.stB 0 0 0) rfl nofun, selects_of_wellFormed (.stH 0 0 0) rfl nofun,
    selects_of_wellFormed (.stW 0 0 0) rfl nofun, ?_⟩
  rintro rd rj si12 s ea rfl
  refine ⟨effectiveAddr_eq s rj si12, fun hadm => ?_, fun hadm => ?_, fun hadm => ?_, fun hrej => ?_, fun hrej => ?_,
    fun hrej => ?_⟩
  · exact storesOnly_of_storeFrom rfl hadm
  · exact storesOnly_of_storeFrom rfl hadm
  · exact storesOnly_of_storeFrom rfl hadm
  · exact congrArg _ (storeFrom_rejected hrej (s.reg rd))
  · exact congrArg _ (storeFrom_rejected hrej (s.reg rd))
  · exact congrArg _ (storeFrom_rejected hrej (s.reg rd))

end Sys2Proof.Machine
end

section
/-! PROOFS. Branches, jumps, call and return (45_branch.md R160 to R169): their targets, the link they write, and the
next pc of every instruction that leaves the machine running (40_step.md R89). -/

namespace Sys2Proof.Machine

/-! ## The targets (D18) -/

/-- An offset counts words: shifted left by two it is four times the signed field (R160, R169). -/
theorem sext16_shiftLeft_two (offs : BitVec 16) : sext16 offs <<< 2 = BitVec.ofInt 32 (offs.toInt * 4) := by
  rw [shiftLeft_two, sext16_toInt]

theorem relTarget_sext16 (s : State) (offs : BitVec 16) :
    s.relTarget (sext16 offs) = s.pc + BitVec.ofInt 32 (offs.toInt * 4) :=
  congrArg (s.pc + ·) (sext16_shiftLeft_two offs)

theorem relTarget_sext26 (s : State) (offs : BitVec 26) :
    s.relTarget (sext26 offs) = s.pc + BitVec.ofInt 32 (offs.toInt * 4) := by
  rw [State.relTarget, shiftLeft_two, sext26_toInt]

/-! ## Retiring to a pc (R88, R89) -/

theorem retire_onlyMovesPc (s : State) (pc' : Word) : OnlyMovesPc s (s.retire pc') pc' where
  zero   := by simp
  others := fun r hr => by rw [retire_reg, if_neg hr]
  pc     := retire_pc s pc'
  memory := fun a => by simp
  status := retire_status s pc'
  params := retire_params s pc'
  draws  := retire_draws s pc'

/-- A link written to `rd`, then the jump; with `rd = 0` the link is zeroed like any write to register 0. -/
theorem setReg_retire_writesOnly (s : State) (rd : RegIdx) (v pc' : Word) :
    WritesOnly s ((s.setReg rd v).retire pc') rd v pc' where
  zero   := by simp
  dest   := fun hrd => by rw [retire_reg, if_neg hrd, setReg_reg, if_pos rfl]
  others := fun r hr hne => by rw [retire_reg, if_neg hr, setReg_reg, if_neg hne]
  pc     := retire_pc _ pc'
  memory := fun a => by simp
  status := by simp
  params := by simp
  draws  := by simp

/-- An instruction whose meaning is to retire to `u` continues at every `pc'` that is equal to it. -/
theorem continues_of_retire {i : Instr} {s : State} {u pc' : Word} (hexec : exec i s = .next (s.retire u))
    (hu : u = pc') : Continues i s pc' :=
  ⟨s.retire u, hexec, hu ▸ retire_onlyMovesPc s u⟩

/-- An instruction whose meaning is to link and retire to `u` yields the link at every `pc'` that is equal to it. -/
theorem yields_of_link {i : Instr} {s : State} {rd : RegIdx} {v u pc' : Word}
    (hexec : exec i s = .next ((s.setReg rd v).retire u)) (hu : u = pc') : Yields i s rd v pc' :=
  ⟨(s.setReg rd v).retire u, hexec, hu ▸ setReg_retire_writesOnly s rd v u⟩

/-! ## Conditional branches (R160) -/

/-- A branch on a comparison `c` that decides `p` continues at its target where `p` holds, else at `pc + 4`. -/
theorem continues_of_branch {i : Instr} {s : State} {c : Bool} {imm target : Word} {p : Prop} [Decidable p]
    (hexec : exec i s = .next (s.branch c imm)) (hc : c = true ↔ p) (ht : s.relTarget imm = target) :
    Continues i s (if p then target else s.pc + 4) := by
  obtain ⟨htaken, h⟩ | ⟨hnot, h⟩ := branch_cases s c imm <;> rw [h] at hexec
  · exact continues_of_retire hexec (ht.trans (if_pos (hc.mp htaken)).symm)
  · exact continues_of_retire hexec (if_neg fun hp => Bool.eq_false_iff.mp hnot (hc.mpr hp)).symm

theorem not_ltSigned_iff (a b : Word) : (!ltSigned a b) = true ↔ a.toInt ≥ b.toInt := by
  rw [Bool.not_eq_true', ltSigned, decide_eq_false_iff_not, Int.not_lt]

theorem not_ltUnsigned_iff (a b : Word) : (!ltUnsigned a b) = true ↔ a.toNat ≥ b.toNat := by
  rw [Bool.not_eq_true', ltUnsigned, decide_eq_false_iff_not, Nat.not_lt]

/-- The six conditional branches share the operation `State.branch`, each with its own comparison. -/
theorem exec_conditionalBranch {i : Instr} {rj rd : RegIdx} {offs : BitVec 16} (s : State)
    (hi : i ∈ [.beq rj rd offs, .bne rj rd offs, .blt rj rd offs, .bge rj rd offs, .bltu rj rd offs,
      Instr.bgeu rj rd offs]) : ∃ c, exec i s = .next (s.branch c (sext16 offs)) := by
  simp only [List.mem_cons, List.not_mem_nil, or_false] at hi
  obtain rfl | rfl | rfl | rfl | rfl | rfl := hi <;> exact ⟨_, rfl⟩

theorem branch_sext16_pc (s : State) (c : Bool) (offs : BitVec 16) :
    (s.branch c (sext16 offs)).pc = s.pc + 4
      ∨ (s.branch c (sext16 offs)).pc = s.pc + BitVec.ofInt 32 (offs.toInt * 4) := by
  obtain ⟨-, h⟩ | ⟨-, h⟩ := branch_cases s c (sext16 offs) <;> rw [h]
  · exact .inr (relTarget_sext16 s offs)
  · exact .inl rfl

/-! ## An instruction that leaves the machine running -/

/-- The events end the run (R91), so an instruction that leaves the machine running has completed. -/
theorem completes_of_running {i : Instr} {s t : State} (h : exec i s = .next t) (hrun : t.status = .running) :
    Completes i s t := by
  cases outcome_of_exec_eq h with
  | completes hc => exact hc
  | trap => cases hrun
  | invalid => cases hrun
  | fault => cases hrun

/-! ## The obligations -/

/-- Settles O33: each branch is `State.branch` on a comparison that decides the statement's condition; `bne` is taken
where the condition fails. -/
theorem conditionalBranches : Obligations.ConditionalBranches := by
  unfold Obligations.ConditionalBranches
  refine ⟨selects_of_wellFormed (.beq 0 0 0) rfl nofun, selects_of_wellFormed (.bne 0 0 0) rfl nofun,
    selects_of_wellFormed (.blt 0 0 0) rfl nofun, selects_of_wellFormed (.bge 0 0 0) rfl nofun,
    selects_of_wellFormed (.bltu 0 0 0) rfl nofun, selects_of_wellFormed (.bgeu 0 0 0) rfl nofun,
    fun rj rd offs s target htarget => ?_⟩
  have ht : s.relTarget (sext16 offs) = target := (relTarget_sext16 s offs).trans htarget.symm
  refine ⟨?_, ?_, ?_, ?_, ?_, ?_⟩
  · exact continues_of_branch rfl beq_iff_eq ht
  · rw [← ite_not]
    exact continues_of_branch rfl bne_iff_ne ht
  · exact continues_of_branch rfl (ltSigned_iff (s.reg rj) (s.reg rd)) ht
  · exact continues_of_branch rfl (not_ltSigned_iff (s.reg rj) (s.reg rd)) ht
  · exact continues_of_branch rfl (ltUnsigned_iff (s.reg rj) (s.reg rd)) ht
  · exact continues_of_branch rfl (not_ltUnsigned_iff (s.reg rj) (s.reg rd)) ht

/-- Settles O34: both retire to the relative target, `bl` after its write of the link. -/
theorem relativeJumpAndCall : Obligations.RelativeJumpAndCall := by
  unfold Obligations.RelativeJumpAndCall
  refine ⟨selects_of_wellFormed (.b 0) rfl nofun, selects_of_wellFormed (.bl 0) rfl nofun, rfl,
    fun offs s target htarget => ?_⟩
  have ht : s.relTarget (sext26 offs) = target := (relTarget_sext26 s offs).trans htarget.symm
  exact ⟨continues_of_retire rfl ht, yields_of_link rfl ht⟩

/-- Settles O35: the target is read before the link is written, also where `rd = rj`. -/
theorem jumpIndirectAndLink : Obligations.JumpIndirectAndLink := by
  unfold Obligations.JumpIndirectAndLink
  exact ⟨selects_of_wellFormed (.jirl 0 0 0) rfl nofun,
    fun rd rj offs s => yields_of_link rfl (congrArg (s.reg rj + ·) (sext16_shiftLeft_two offs))⟩

/-- Settles O37: an instruction that leaves the machine running has completed, which fixes the pc of all but the
control transfers; a conditional branch retires to one of two addresses. -/
theorem nextPcIsSequentialOrTarget : Obligations.NextPcIsSequentialOrTarget := by
  unfold Obligations.NextPcIsSequentialOrTarget
  intro i s t _ hexec hrun
  refine ⟨(completes_of_running hexec hrun).pc, fun rj rd offs hi => ?_⟩
  obtain ⟨c, hbranch⟩ := exec_conditionalBranch s hi
  cases hbranch.symm.trans hexec
  exact branch_sext16_pc s c offs

end Sys2Proof.Machine
end

section
/-! PROOFS. Barriers, trap and catch-all (46_system.md R176 to R179): the words that select them, the state each leaves,
and whether the end of the run is a success (40_step.md R91, R92). -/

namespace Sys2Proof.Machine

/-! ## The ends of a run (R91, R92) -/

theorem Signals.successful {s t : State} {pc code : Word} (h : Signals s t (.exited pc code)) : Successful t :=
  ⟨pc, code, h.status⟩

theorem Signals.ended_of_aborted {s t : State} {pc : Word} (h : Signals s t (.aborted pc)) : Ended t := by
  simp [Ended, h.status]

theorem Signals.not_successful_of_aborted {s t : State} {pc : Word} (h : Signals s t (.aborted pc)) :
    ¬Successful t := by
  rintro ⟨pc', code, hexited⟩
  cases h.status.symm.trans hexited

/-! ## The selection of the catch-all (R54, R55) -/

/-- The scan ends at the catch-all exactly for the words that no specific template matches. -/
theorem exists_decodeWord_eq_inv_iff {p : Params} (hp : p.or2 = none) (w : Word) :
    (∃ v, decodeWord p w = .inv v) ↔ ∀ t ∈ specificTemplates p, w &&& t.mask ≠ t.expected := by
  simp only [decodeWord_of_or2_none hp, firstMatch_eq_inv_iff, exists_eq_left, Bool.eq_false_iff, ne_eq,
    Template.hits_iff_and]

/-! ## The obligations -/

/-- Settles O38: both barriers only retire to `pc + 4`; no meaning reads the hint. -/
theorem barriersOnlyMovePc : Obligations.BarriersOnlyMovePc := by
  unfold Obligations.BarriersOnlyMovePc
  exact ⟨selects_of_wellFormed (.dbar 0) rfl nofun, selects_of_wellFormed (.ibar 0) rfl nofun,
    fun h s => ⟨continues_of_retire rfl rfl, continues_of_retire rfl rfl⟩⟩

/-- Settles O39: `break` takes the event `Trap` with the pc and the exit register as they were before it. -/
theorem breakRaisesTrap : Obligations.BreakRaisesTrap := by
  unfold Obligations.BreakRaisesTrap
  refine ⟨selects_of_wellFormed (.brk 0) rfl nofun, rfl, fun c s => ?_⟩
  have hsig := signals_of_trap s s.pc (s.reg s.params.exitReg)
  exact ⟨_, rfl, hsig, hsig.successful⟩

/-- Settles O40: the scan selects the catch-all for the words that nothing else matches; its action takes the event
`Invalid`, whose status is not the one of a success. -/
theorem catchAllRaisesInvalid : Obligations.CatchAllRaisesInvalid := by
  unfold Obligations.CatchAllRaisesInvalid
  refine ⟨fun p w hp => exists_decodeWord_eq_inv_iff hp w, fun w s => ?_⟩
  obtain ⟨t, hexec, hsig⟩ := exec_inv_signals w s
  exact ⟨t, hexec, hsig, hsig.ended_of_aborted, hsig.not_successful_of_aborted⟩

end Sys2Proof.Machine
end

section
/-! PROOFS. The invariant of the machine (40_step.md R88; 20_memory.md R30): it holds at every start of a run from
canonical memory, and every step keeps it. -/

namespace Sys2Proof.Machine

/-! ## The next state of a step -/

/-- A step that answers a next state executed the fetched instruction, or took the fault of its fetch. -/
theorem step_next_cases {s t : State} (h : step s = .next t) :
    (∃ i, s.fetched = .ok i ∧ exec i s = .next t)
      ∨ (∃ r, s.fetched = .error r ∧ t = s.raiseEvent (.fault r)) := by
  obtain ⟨i, hf, hstep⟩ | ⟨r, hf, hstep⟩ := step_running s (status_running_of_step h)
  · exact .inl ⟨i, hf, hstep.symm.trans h⟩
  · cases hstep.symm.trans h
    exact .inr ⟨r, hf, rfl⟩

/-! ## Canonical memory -/

/-- A store keeps the canonical form: one that completes by writing bytes, one that faults by writing none. -/
theorem storeFrom_wf {s : State} (hm : Memory.wf s.mem = true) (w : Width) (ea v : Word) :
    Memory.wf (s.storeFrom w ea v).mem = true := by
  obtain ⟨-, h⟩ | ⟨-, h⟩ := storeFrom_cases s w ea v
  · rw [h, retire_mem, store_mem]
    exact writeRaw_wf s.mem ea (widthBytes w) v hm
  · rwa [h, raiseEvent_mem]

theorem exec_wf {i : Instr} {s t : State} (hm : Memory.wf s.mem = true) (h : exec i s = .next t) :
    Memory.wf t.mem = true := by
  cases hform : storeForm i with
  | none => rwa [exec_mem_of_storeForm_none hform h]
  | some form =>
    obtain ⟨rj, si12, w⟩ := form
    obtain ⟨rd, hstore⟩ := exec_of_storeForm s hform
    cases hstore.symm.trans h
    exact storeFrom_wf hm w _ _

theorem step_wf {s t : State} (hm : Memory.wf s.mem = true) (h : step s = .next t) : Memory.wf t.mem = true := by
  obtain ⟨i, -, hexec⟩ | ⟨r, -, rfl⟩ := step_next_cases h
  · exact exec_wf hm hexec
  · rwa [raiseEvent_mem]

/-! ## Register 0 -/

/-- Register 0 stays zero: a step that completes zeroes it, and a fault leaves it as it was (R88). -/
theorem step_zero {s t : State} (h0 : s.reg 0 = 0) (h : step s = .next t) : t.reg 0 = 0 := by
  obtain ⟨hcompleted, hfaulted⟩ := registerZeroAfterEveryStep s t h
  by_cases hf : ∃ r, t.status = .faulted r
  · obtain ⟨r, hr⟩ := hf
    exact (hfaulted r hr 0).trans h0
  · exact hcompleted fun r hr => hf ⟨r, hr⟩

/-- Settles O50: the two parts of the invariant, each kept by the fetched instruction and by the fault of a fetch. -/
theorem stepKeepsInvariant : Obligations.StepKeepsInvariant := by
  unfold Obligations.StepKeepsInvariant
  intro s t hinv h
  exact ⟨step_zero hinv.zero h, step_wf hinv.memory h⟩

/-! ## The start of a run (70_reset_and_hazards.md R205 to R210, D25) -/

/-- Register 0 starts as 0, whatever the caller gives for it (R207); the others start as given. -/
@[simp] theorem boot_reg (pc : Word) (rs : Vector Word 32) (m : Memory) (p : Params) (r : RegIdx) :
    (State.boot pc rs m p).reg r = if r = 0 then 0 else rs[r.toNat]'r.isLt :=
  setReg_reg ⟨rs, pc, m, .running, p, 0⟩ 0 r 0

theorem boot_inv (pc : Word) (rs : Vector Word 32) {m : Memory} (p : Params) (hm : Memory.wf m = true) :
    Inv (State.boot pc rs m p) where
  zero   := by simp
  memory := hm

/-- Settles O51: reset is the start of a run from the empty memory. -/
theorem resetMeetsInvariant : Obligations.ResetMeetsInvariant := by
  unfold Obligations.ResetMeetsInvariant
  exact ⟨boot_inv _ _ _ reset_mem_wf, fun pc rs m p hm => boot_inv pc rs p hm⟩

/-- Settles O52, by the fields of `State.boot`. -/
theorem startOfRun : Obligations.StartOfRun := by
  unfold Obligations.StartOfRun
  intro pc rs m p
  exact ⟨by simp, boot_pc pc rs m p, boot_mem pc rs m p, boot_status pc rs m p,
    fun r hr => (boot_reg pc rs m p r).trans (if_neg hr)⟩

end Sys2Proof.Machine
end

section
/-! PROOFS. The ends of a run (10_state.md R19; 60_exceptions.md R185, R190): the refused fetch, the instructions that
end a run, and that nothing follows the end. -/

namespace Sys2Proof.Machine

/-! ## The fetch (20_memory.md R38, D22) -/

theorem fetched_of_rejected {s : State} (h : s.admits s.pc .word .fetch = false) :
    s.fetched = .error (.memory s.pc .word .fetch) := if_neg (Bool.eq_false_iff.mp h)

theorem step_of_rejected_fetch {s : State} (hrun : s.status = .running) (h : s.admits s.pc .word .fetch = false) :
    step s = .next (faultedState s (.memory s.pc .word .fetch)) := by
  obtain ⟨i, hf, -⟩ | ⟨r, hf, hstep⟩ := step_running s hrun
  · cases hf.symm.trans (fetched_of_rejected h)
  · cases hf.symm.trans (fetched_of_rejected h)
    exact hstep

/-- Settles O42: a fetch that is not admitted takes the event `MemFault`, which changes the status alone. -/
theorem refusedFetchEndsRun : Obligations.RefusedFetchEndsRun := by
  unfold Obligations.RefusedFetchEndsRun
  exact fun _ => step_of_rejected_fetch

/-! ## After the end (D24) -/

/-- A run of one or more steps answers the fault of its first step. -/
theorem run_succ_of_step_fault {M : Host.Core} {s : M.State} {f : M.Fault} (h : M.step s = .fault f) (n : Nat) :
    M.run (n + 1) s = .fault f := by
  rw [Host.Core.run, h]

/-- Settles O43: the first step of every run from an ended state faults, and the run ends there. -/
theorem endedRunTakesNoStep : Obligations.EndedRunTakesNoStep := by
  unfold Obligations.EndedRunTakesNoStep
  exact fun s n hend => ⟨step_ended s hend, run_succ_of_step_fault (M := core) (step_ended s hend) n⟩

/-! ## The instructions that end a run -/

/-- Settles O46: an instruction that completes passes the status on, so one that ends the run raised an event, and each
event has its cause. -/
theorem onlyTheFourEventsEndARun : Obligations.OnlyTheFourEventsEndARun := by
  unfold Obligations.OnlyTheFourEventsEndARun
  intro i s t hrun hexec hend
  cases outcome_of_exec_eq hexec with
  | completes hc => exact absurd (hc.status.trans hrun) hend
  | trap hi => exact .inl ⟨⟨_, hi⟩, rfl⟩
  | invalid hi => exact .inr (.inl ⟨⟨_, hi⟩, rfl⟩)
  | fault cause =>
    refine .inr (.inr ?_)
    cases cause with
    | load form rejected => exact .inl ⟨_, _, _, form, rejected, rfl⟩
    | store form rejected => exact .inr (.inl ⟨_, _, _, form, rejected, rfl⟩)
    | divide form cause => exact .inr (.inr ⟨_, _, _, form, rfl, cause⟩)

end Sys2Proof.Machine
end

section
/-! PROOFS. The alignment of the pc (20_memory.md R37; 40_step.md R89): where an instruction leaves the pc. -/

namespace Sys2Proof.Machine

/-- An instruction other than `jirl` leaves the pc where it is, at `pc + 4`, or at a relative target. -/
theorem exec_pc_cases {i : Instr} {s t : State} (h : exec i s = .next t)
    (hjirl : ∀ rd rj offs, i ≠ .jirl rd rj offs) :
    t.pc = s.pc ∨ t.pc = s.pc + 4 ∨ ∃ imm, t.pc = s.relTarget imm := by
  cases outcome_of_exec_eq h with
  | trap | invalid | fault => exact .inl (raiseEvent_pc s _)
  | completes hc =>
    refine .inr ?_
    cases hct : isControlTransfer i with
    | false => exact .inl (hc.pc hct)
    | true =>
      cases i with
      | jirl rd rj offs => exact absurd rfl (hjirl rd rj offs)
      | b | bl => cases h; exact .inr ⟨_, rfl⟩
      | beq | bne | blt | bge | bltu | bgeu =>
        cases h
        obtain ⟨-, hbranch⟩ | ⟨-, hbranch⟩ := branch_cases s _ _ <;> rw [hbranch]
        · exact .inr ⟨_, rfl⟩
        · exact .inl rfl
      | _ => cases hct

theorem snpc_aligned {s : State} (h : s.pc.toNat % 4 = 0) : (s.pc + 4).toNat % 4 = 0 := by
  have h4 : (4 : Word).toNat = 4 := rfl
  rw [BitVec.toNat_add, h4]
  omega

/-- Offsets count words, so a relative target is a multiple of 4 away (45_branch.md R160). -/
theorem relTarget_aligned {s : State} (h : s.pc.toNat % 4 = 0) (imm : Word) : (s.relTarget imm).toNat % 4 = 0 := by
  simp only [State.relTarget, BitVec.toNat_add, BitVec.toNat_shiftLeft, Nat.shiftLeft_eq]
  omega

/-- Settles O36, by where the instruction leaves the pc. -/
theorem onlyJirlMisalignsPc : Obligations.OnlyJirlMisalignsPc := by
  unfold Obligations.OnlyJirlMisalignsPc
  intro i s t hexec hjirl haligned
  obtain hpc | hpc | ⟨imm, hpc⟩ := exec_pc_cases hexec hjirl <;> rw [hpc]
  · exact haligned
  · exact snpc_aligned haligned
  · exact relTarget_aligned haligned imm

end Sys2Proof.Machine
end

section
/-! PROOFS. The model's own fields (00_scope.md R4; 43_muldiv.md R138): no step writes the parameters, and only a divide
draws a free value. -/

namespace Sys2Proof.Machine

/-! ## What each shared operation does to them -/

@[simp] theorem loadInto_params (s : State) (w : Width) (f : Word → Word) (rd : RegIdx) (ea : Word) :
    (s.loadInto w f rd ea).params = s.params := by
  obtain ⟨-, h⟩ | ⟨-, h⟩ := loadInto_cases s w f rd ea <;> simp [h]

@[simp] theorem loadInto_draws (s : State) (w : Width) (f : Word → Word) (rd : RegIdx) (ea : Word) :
    (s.loadInto w f rd ea).draws = s.draws := by
  obtain ⟨-, h⟩ | ⟨-, h⟩ := loadInto_cases s w f rd ea <;> simp [h]

@[simp] theorem storeFrom_params (s : State) (w : Width) (ea v : Word) : (s.storeFrom w ea v).params = s.params := by
  obtain ⟨-, h⟩ | ⟨-, h⟩ := storeFrom_cases s w ea v <;> simp [h]

@[simp] theorem storeFrom_draws (s : State) (w : Width) (ea v : Word) : (s.storeFrom w ea v).draws = s.draws := by
  obtain ⟨-, h⟩ | ⟨-, h⟩ := storeFrom_cases s w ea v <;> simp [h]

@[simp] theorem divide_params (s : State) (op : DivOp) (rd : RegIdx) (a b : Word) :
    (s.divide op rd a b).params = s.params := by
  obtain ⟨-, -, h⟩ | ⟨-, -, h⟩ | ⟨-, -, -, h⟩ | ⟨-, h⟩ | ⟨-, h⟩ := divide_cases s op rd a b <;> simp [h]

theorem divide_draws (s : State) (op : DivOp) (rd : RegIdx) (a b : Word) :
    (s.divide op rd a b).draws = s.draws ∨ (s.divide op rd a b).draws = s.draws + 1 := by
  obtain ⟨-, -, h⟩ | ⟨-, -, h⟩ | ⟨-, -, -, h⟩ | ⟨-, h⟩ | ⟨-, h⟩ := divide_cases s op rd a b <;> simp [h]

/-- An immediate shift that answers a next state has written back its value. -/
theorem eq_of_shiftImm_next {s t : State} {rd : RegIdx} {ui5 : BitVec 5} {v : Word}
    (h : s.shiftImm rd ui5 v = .next t) : t = s.writeBack rd v := by
  obtain ⟨-, hs⟩ | ⟨-, hs⟩ := shiftImm_cases s rd ui5 v
  · cases hs.symm.trans h
    rfl
  · cases hs.symm.trans h

/-! ## What each instruction does to them -/

theorem exec_params {i : Instr} {s t : State} (h : exec i s = .next t) : t.params = s.params := by
  cases i with
  | ldB | ldH | ldW | ldBu | ldHu => cases h; exact loadInto_params ..
  | stB | stH | stW => cases h; exact storeFrom_params ..
  | divW | modW | divWu | modWu => cases h; exact divide_params ..
  | slliW | srliW | sraiW => rw [eq_of_shiftImm_next h, writeBack_params]
  | beq | bne | blt | bge | bltu | bgeu | b | bl | jirl | dbar | ibar => cases h; exact retire_params ..
  | brk | inv => cases h; exact raiseEvent_params ..
  | _ => cases h; exact writeBack_params ..

/-- Only a divide draws, and at most one value (R138; log entry 8). -/
theorem exec_draws {i : Instr} {s t : State} (h : exec i s = .next t) :
    t.draws = s.draws ∨ (t.draws = s.draws + 1 ∧ (divForm i).isSome = true) := by
  cases i with
  | divW | modW | divWu | modWu => cases h; exact (divide_draws ..).imp_right fun hd => ⟨hd, rfl⟩
  | ldB | ldH | ldW | ldBu | ldHu => cases h; exact .inl (loadInto_draws ..)
  | stB | stH | stW => cases h; exact .inl (storeFrom_draws ..)
  | slliW | srliW | sraiW => exact .inl (by rw [eq_of_shiftImm_next h, writeBack_draws])
  | beq | bne | blt | bge | bltu | bgeu | b | bl | jirl | dbar | ibar => cases h; exact .inl (retire_draws ..)
  | brk | inv => cases h; exact .inl (raiseEvent_draws ..)
  | _ => cases h; exact .inl (writeBack_draws ..)

/-- Settles O48: the fetched instruction keeps the fields as it does, and the fault of a fetch changes neither. -/
theorem parametersAndDraws : Obligations.ParametersAndDraws := by
  unfold Obligations.ParametersAndDraws
  intro s t h
  obtain ⟨i, hf, hexec⟩ | ⟨r, -, rfl⟩ := step_next_cases h
  · exact ⟨exec_params hexec, (exec_draws hexec).imp_right fun ⟨hd, hdiv⟩ => ⟨hd, i, hf, hdiv⟩⟩
  · exact ⟨raiseEvent_params s _, .inl (raiseEvent_draws s _)⟩

end Sys2Proof.Machine
end

section
/-! PROOFS. Noninterference (10_state.md R13, R21; 92_eei_decisions.md D29): two states that differ in one register
still differ in it alone after an instruction that does not read it. -/

namespace Sys2Proof.Machine

/-- `t` is `s` but for what register `r` holds. -/
structure AgreeExcept (r : RegIdx) (s t : State) : Prop where
  regs   : ∀ q, q ≠ r → t.reg q = s.reg q
  pc     : t.pc = s.pc
  mem    : t.mem = s.mem
  status : t.status = s.status
  params : t.params = s.params
  draws  : t.draws = s.draws

/-- Two answers are alike: next states that differ in register `r` alone, or the same refusal. -/
inductive AnswersAgree (r : RegIdx) : Result → Result → Prop where
  | next {s t : State} (h : AgreeExcept r s t) : AnswersAgree r (.next s) (.next t)
  | refused (e : Refusal) : AnswersAgree r (.refused e) (.refused e)

theorem agreeExcept_setReg (s : State) (r : RegIdx) (v : Word) : AgreeExcept r s (s.setReg r v) where
  regs   := fun q hq => (setReg_reg s r q v).trans (if_neg hq)
  pc     := setReg_pc s r v
  mem    := setReg_mem s r v
  status := setReg_status s r v
  params := setReg_params s r v
  draws  := setReg_draws s r v

/-! ## What is read of two such states -/

theorem readRaw_congr {s t : State} (h : t.mem = s.mem) (a : Word) (n : Nat) : t.readRaw a n = s.readRaw a n := by
  induction n generalizing a with
  | zero => rfl
  | succ n ih => rw [State.readRaw, State.readRaw, ih, State.byteAt, State.byteAt, h]

theorem admits_congr {s t : State} (hm : t.mem = s.mem) (hp : t.params = s.params) (a : Word) (w : Width)
    (k : AccessKind) : t.admits a w k = s.admits a w k := by
  simp only [State.admits, State.written, hm, hp]

section
variable {r : RegIdx} {s t : State}

theorem AgreeExcept.snpc (h : AgreeExcept r s t) : t.snpc = s.snpc := congrArg (· + 4) h.pc

theorem AgreeExcept.relTarget (h : AgreeExcept r s t) (imm : Word) : t.relTarget imm = s.relTarget imm :=
  congrArg (· + imm <<< 2) h.pc

theorem AgreeExcept.logicImm (h : AgreeExcept r s t) (imm : Word) : t.logicImm imm = s.logicImm imm := by
  rw [State.logicImm, State.logicImm, h.params]

theorem AgreeExcept.admits (h : AgreeExcept r s t) (a : Word) (w : Width) (k : AccessKind) :
    t.admits a w k = s.admits a w k := admits_congr h.mem h.params a w k

theorem AgreeExcept.readRaw (h : AgreeExcept r s t) (a : Word) (n : Nat) : t.readRaw a n = s.readRaw a n :=
  readRaw_congr h.mem a n

/-! ## Each shared operation keeps the agreement -/

theorem AgreeExcept.setReg (h : AgreeExcept r s t) (q : RegIdx) (v : Word) :
    AgreeExcept r (s.setReg q v) (t.setReg q v) where
  regs p hp := by rw [setReg_reg, setReg_reg, h.regs p hp]
  pc     := h.pc
  mem    := h.mem
  status := h.status
  params := h.params
  draws  := h.draws

theorem AgreeExcept.retire (h : AgreeExcept r s t) {u v : Word} (hpc : v = u) :
    AgreeExcept r (s.retire u) (t.retire v) where
  regs   := (h.setReg 0 0).regs
  pc     := hpc
  mem    := h.mem
  status := h.status
  params := h.params
  draws  := h.draws

theorem AgreeExcept.writeBack (h : AgreeExcept r s t) (rd : RegIdx) {u v : Word} (hv : v = u) :
    AgreeExcept r (s.writeBack rd u) (t.writeBack rd v) := by
  rw [hv]
  exact (h.setReg rd u).retire h.snpc

/-- A link to `pc + 4`, then the jump (45_branch.md R168, R169). -/
theorem AgreeExcept.link (h : AgreeExcept r s t) {q q' : RegIdx} {u v : Word} (hq : q' = q) (hpc : v = u) :
    AgreeExcept r ((s.setReg q s.snpc).retire u) ((t.setReg q' t.snpc).retire v) := by
  rw [hq, h.snpc]
  exact (h.setReg q s.snpc).retire hpc

theorem AgreeExcept.store (h : AgreeExcept r s t) (ea : Word) (n : Nat) (v : Word) :
    AgreeExcept r (s.store ea n v) (t.store ea n v) where
  regs   := h.regs
  pc     := h.pc
  mem    := by rw [store_mem, store_mem, h.mem]
  status := h.status
  params := h.params
  draws  := h.draws

theorem AgreeExcept.raiseEvent (h : AgreeExcept r s t) {d e : Event} (he : e = d) :
    AgreeExcept r (s.raiseEvent d) (t.raiseEvent e) where
  regs   := by
    subst he
    cases e with
    | trap | invalid => exact (h.setReg 0 0).regs
    | fault => exact h.regs
  pc     := by rw [raiseEvent_pc, raiseEvent_pc, h.pc]
  mem    := by rw [raiseEvent_mem, raiseEvent_mem, h.mem]
  status := by subst he; cases e <;> rfl
  params := by rw [raiseEvent_params, raiseEvent_params, h.params]
  draws  := by rw [raiseEvent_draws, raiseEvent_draws, h.draws]

theorem AgreeExcept.branch (h : AgreeExcept r s t) {c d : Bool} (hc : d = c) (imm : Word) :
    AgreeExcept r (s.branch c imm) (t.branch d imm) :=
  h.retire (by rw [hc, h.relTarget, h.snpc])

theorem AgreeExcept.loadInto (h : AgreeExcept r s t) (w : Width) (f : Word → Word) (rd : RegIdx) {ea ea' : Word}
    (hea : ea' = ea) : AgreeExcept r (s.loadInto w f rd ea) (t.loadInto w f rd ea') := by
  subst hea
  unfold State.loadInto
  rw [h.admits]
  split
  · exact h.writeBack rd (congrArg f (h.readRaw _ _))
  · exact h.raiseEvent rfl

theorem AgreeExcept.storeFrom (h : AgreeExcept r s t) (w : Width) {ea ea' v v' : Word} (hea : ea' = ea)
    (hv : v' = v) : AgreeExcept r (s.storeFrom w ea v) (t.storeFrom w ea' v') := by
  subst hea hv
  unfold State.storeFrom
  rw [h.admits]
  split
  · exact (h.store _ _ _).retire h.snpc
  · exact h.raiseEvent rfl

theorem AgreeExcept.divideFault (h : AgreeExcept r s t) : AgreeExcept r s.divideFault t.divideFault :=
  h.raiseEvent (by rw [h.pc])

theorem AgreeExcept.drawInto (h : AgreeExcept r s t) (rd : RegIdx) :
    AgreeExcept r (s.drawInto rd) (t.drawInto rd) :=
  have hdraw := h.writeBack rd (congrArg Config.draw h.draws)
  { hdraw with draws := congrArg (· + 1) h.draws }

theorem AgreeExcept.divByZero (h : AgreeExcept r s t) (op : DivOp) (rd : RegIdx) (a : Word) :
    AgreeExcept r (s.divByZero op rd a) (t.divByZero op rd a) := by
  unfold State.divByZero
  rw [h.params]
  cases s.params.div0 with
  | fault => exact h.divideFault
  | draw => exact h.drawInto rd
  | function => exact h.writeBack rd rfl

theorem AgreeExcept.divOverflow (h : AgreeExcept r s t) (op : DivOp) (rd : RegIdx) :
    AgreeExcept r (s.divOverflow op rd) (t.divOverflow op rd) := by
  unfold State.divOverflow
  rw [h.params]
  cases s.params.divOvf with
  | fault => exact h.divideFault
  | draw => exact h.drawInto rd
  | wrap => exact h.writeBack rd rfl

theorem AgreeExcept.divide (h : AgreeExcept r s t) (op : DivOp) (rd : RegIdx) {a b a' b' : Word} (ha : a' = a)
    (hb : b' = b) : AgreeExcept r (s.divide op rd a b) (t.divide op rd a' b') := by
  subst ha hb
  unfold State.divide
  split_ifs
  · exact h.divByZero op rd _
  · exact h.divOverflow op rd
  · exact h.writeBack rd rfl

theorem AgreeExcept.shiftImm (h : AgreeExcept r s t) (rd : RegIdx) (ui5 : BitVec 5) {u v : Word} (hv : v = u) :
    AnswersAgree r (s.shiftImm rd ui5 u) (t.shiftImm rd ui5 v) := by
  unfold State.shiftImm
  rw [h.params]
  split
  · exact .refused _
  · exact .next (h.writeBack rd hv)

/-! ## Each instruction keeps the agreement -/

theorem exec_agree {i : Instr} (h : AgreeExcept r s t) (hr : r ∉ readsOf s.params i) :
    AnswersAgree r (exec i s) (exec i t) := by
  have hread : ∀ q ∈ readsOf s.params i, t.reg q = s.reg q := fun q hq =>
    h.regs q fun hqr => hr (hqr ▸ hq)
  cases i with
  | divW | modW | divWu | modWu =>
    exact .next (h.divide _ _ (hread _ (by simp [readsOf])) (hread _ (by simp [readsOf])))
  | ori | andi | xori => exact .next (h.writeBack _ (by simp [hread _ List.mem_cons_self, h.logicImm]))
  | slliW | srliW | sraiW => exact h.shiftImm _ _ (by simp [hread _ List.mem_cons_self])
  | ldB | ldH | ldW | ldBu | ldHu => exact .next (h.loadInto _ _ _ (by simp [hread _ List.mem_cons_self]))
  | stB rd rj | stH rd rj | stW rd rj =>
    exact .next (h.storeFrom _ (by simp [hread rj (by simp [readsOf])]) (hread rd (by simp [readsOf])))
  | beq rj rd | bne rj rd | blt rj rd | bge rj rd | bltu rj rd | bgeu rj rd =>
    exact .next (h.branch (by simp [hread rj (by simp [readsOf]), hread rd (by simp [readsOf])]) _)
  | pcaddu12i => exact .next (h.writeBack _ (by rw [h.pc]))
  | lu12iW => exact .next (h.writeBack _ rfl)
  | b => exact .next (h.retire (h.relTarget _))
  | bl => exact .next (h.link (by rw [h.params]) (h.relTarget _))
  | jirl => exact .next (h.link rfl (by simp [hread _ List.mem_cons_self]))
  | dbar | ibar => exact .next (h.retire h.snpc)
  | brk => exact .next (h.raiseEvent (by rw [h.pc, h.params, hread _ List.mem_cons_self]))
  | inv => exact .next (h.raiseEvent (by rw [h.pc]))
  | addiW | slti | sltui => exact .next (h.writeBack _ (by simp [hread _ List.mem_cons_self]))
  | _ rd rj rk => exact .next (h.writeBack _ (by simp [hread rj (by simp [readsOf]), hread rk (by simp [readsOf])]))

end

/-- Settles O49: the changed state agrees with the old one but for the register, and so do the answers. -/
theorem unreadRegistersDoNotInterfere : Obligations.UnreadRegistersDoNotInterfere := by
  unfold Obligations.UnreadRegistersDoNotInterfere
  intro i s r v hr
  have hagree := exec_agree (agreeExcept_setReg s r v) hr
  generalize exec i s = o, exec i (s.setReg r v) = o' at hagree ⊢
  cases hagree with
  | next h =>
    refine ⟨fun t ht => ?_, nofun⟩
    cases ht
    exact ⟨_, rfl, h.regs, h.pc, h.mem, h.status, h.params, h.draws⟩
  | refused e => exact ⟨fun _ ht => (nomatch ht), fun _ he => he⟩

end Sys2Proof.Machine
end

section
/-! PROOFS. Malformed patterns (30_encoding.md R51, D28): compilation skips whitespace, stops at any other character
that is no symbol, and counts the symbols. -/

namespace Sys2Proof

/-! ## One character -/

theorem IsSymbol.isWhitespace_eq_false {c : Char} (hc : IsSymbol c) : c.isWhitespace = false := by
  obtain rfl | rfl | rfl := hc <;> decide

theorem patternSymbol_whitespace {c : Char} (hc : c.isWhitespace = true) (acc : Option (Word × Word × Nat)) :
    patternSymbol acc c = acc := by
  have hsym : ¬IsSymbol c := fun h => Bool.false_ne_true (h.isWhitespace_eq_false.symm.trans hc)
  obtain ⟨h0, h1, hq⟩ : c ≠ '0' ∧ c ≠ '1' ∧ c ≠ '?' := by simpa only [IsSymbol, not_or] using hsym
  obtain _ | ⟨m, e, n⟩ := acc
  · rfl
  · simp only [patternSymbol, if_neg h0, if_neg h1, if_neg hq, if_pos hc]

theorem patternSymbol_other {c : Char} (hsym : ¬IsSymbol c) (hc : c.isWhitespace = false)
    (acc : Option (Word × Word × Nat)) : patternSymbol acc c = none := by
  obtain ⟨h0, h1, hq⟩ : c ≠ '0' ∧ c ≠ '1' ∧ c ≠ '?' := by simpa only [IsSymbol, not_or] using hsym
  obtain _ | ⟨m, e, n⟩ := acc
  · rfl
  · simp [patternSymbol, h0, h1, hq, hc]

/-! ## A list of characters -/

theorem foldl_patternSymbol_none (cs : List Char) : cs.foldl patternSymbol none = none := by
  induction cs with
  | nil => rfl
  | cons c cs ih => exact ih

/-- Whitespace leaves what is compiled so far as it is. -/
theorem foldl_patternSymbol_filter (cs : List Char) (acc : Option (Word × Word × Nat)) :
    (cs.filter fun c => !c.isWhitespace).foldl patternSymbol acc = cs.foldl patternSymbol acc := by
  induction cs generalizing acc with
  | nil => rfl
  | cons c cs ih =>
    cases hc : c.isWhitespace with
    | true => rw [List.filter_cons_of_neg (by simp [hc]), ih, List.foldl_cons, patternSymbol_whitespace hc]
    | false => rw [List.filter_cons_of_pos (by simp [hc]), List.foldl_cons, List.foldl_cons, ih]

/-- A character that is neither symbol nor whitespace refuses the whole pattern. -/
theorem foldl_patternSymbol_other {cs : List Char} {c : Char} (hmem : c ∈ cs) (hsym : ¬IsSymbol c)
    (hc : c.isWhitespace = false) (acc : Option (Word × Word × Nat)) : cs.foldl patternSymbol acc = none := by
  obtain ⟨as, bs, rfl⟩ := List.append_of_mem hmem
  rw [List.foldl_append, List.foldl_cons, patternSymbol_other hsym hc, foldl_patternSymbol_none]

/-- Compilation counts the symbols, however many there are. -/
theorem foldl_patternSymbol_count {cs : List Char} (hsym : ∀ c ∈ cs, IsSymbol c) (m e : Word) (n : Nat) :
    ∃ m' e', cs.foldl patternSymbol (some (m, e, n)) = some (m', e', n + cs.length) := by
  induction cs generalizing m e n with
  | nil => exact ⟨m, e, rfl⟩
  | cons c cs ih =>
    obtain ⟨hc, hcs⟩ := List.forall_mem_cons.mp hsym
    obtain ⟨m', e', h⟩ := ih hcs _ _ (n + 1)
    refine ⟨m', e', ?_⟩
    rw [List.foldl_cons, patternSymbol_of_isSymbol hc, h, List.length_cons, Nat.add_assoc, Nat.add_comm 1]

/-! ## Compilation -/

theorem compilePattern_filter (cs : List Char) :
    compilePattern (cs.filter fun c => !c.isWhitespace) = compilePattern cs := by
  rw [compilePattern, foldl_patternSymbol_filter, compilePattern]

theorem compilePattern_other {cs : List Char} {c : Char} (hmem : c ∈ cs) (hsym : ¬IsSymbol c)
    (hc : c.isWhitespace = false) : compilePattern cs = none := by
  rw [compilePattern, foldl_patternSymbol_other hmem hsym hc]

theorem compilePattern_symbols_length {cs : List Char} (hsym : ∀ c ∈ cs, IsSymbol c) (hlen : cs.length ≠ 32) :
    compilePattern cs = none := by
  obtain ⟨m, e, h⟩ := foldl_patternSymbol_count hsym 0 0 0
  rw [Nat.zero_add] at h
  rw [compilePattern, h]
  exact if_neg hlen

/-- Settles O6: without its whitespace a pattern either holds a character that refuses it, or only symbols, which are
counted. -/
theorem malformedPatternsAreRefused : Obligations.MalformedPatternsAreRefused := by
  unfold Obligations.MalformedPatternsAreRefused
  refine ⟨fun cs => (compilePattern_filter cs).symm, ?_, fun cs hlen => ?_⟩
  · rintro cs ⟨c, hmem, h0, h1, hq, hc⟩
    exact compilePattern_other hmem (by simp only [IsSymbol, not_or]; exact ⟨h0, h1, hq⟩) hc
  · by_cases hsym : ∀ c ∈ cs.filter fun c => !c.isWhitespace, IsSymbol c
    · rw [← compilePattern_filter]
      exact compilePattern_symbols_length hsym hlen
    · push Not at hsym
      obtain ⟨c, hmem, hother⟩ := hsym
      obtain ⟨hcs, hc⟩ := List.mem_filter.mp hmem
      exact compilePattern_other hcs hother (by simpa using hc)

end Sys2Proof
end

section
/-! PROOFS. The order of the templates (30_encoding.md R54, R68, R69): it has no effect on disjoint templates; a second
`or` template takes the words that no earlier template takes. -/

namespace Sys2Proof

open Machine

/-! ## Disjoint templates in any order (R68) -/

/-- No word matches two rows that differ. -/
theorem not_both_match_of_rowsDiffer {a b : Word × Word} (hd : rowsDiffer a b = true) (w : Word) :
    ¬(w &&& a.1 = a.2 ∧ w &&& b.1 = b.2) := by
  rintro ⟨ha, hb⟩
  have hmiss := Template.not_hits_of_rowsDiffer (t := ⟨a.1, a.2, .noOperand .inv⟩)
    (u := ⟨b.1, b.2, .noOperand .inv⟩) hd (beq_iff_eq.mpr ha)
  exact Bool.eq_false_iff.mp hmiss (beq_iff_eq.mpr hb)

theorem rows_pairwise_differ : (specificRows ++ optionalRows).Pairwise fun a b => rowsDiffer a b = true := by
  decide

theorem catchAll_hits (w : Word) : templateCatchAll.hits w = true := (Template.hits_iff_and _ _).mpr BitVec.and_zero

/-- The expected bits of a row are a word that matches it. -/
theorem expected_matches_row : ∀ r ∈ specificRows ++ optionalRows, r.2 &&& r.1 = r.2 := by
  have hall : (specificRows ++ optionalRows).all (fun r => r.2 &&& r.1 == r.2) = true := by decide
  exact fun r hr => beq_iff_eq.mp (List.all_eq_true.mp hall r hr)

theorem firstMatch_perm {ts us : List Template} (hd : us.Pairwise fun t u => rowsDiffer t.row u.row = true)
    (hperm : ts.Perm us) (w : Word) : firstMatch ts w = firstMatch us w := by
  have hd' : ts.Pairwise fun t u => rowsDiffer t.row u.row = true :=
    hperm.symm.pairwise hd fun h => rowsDiffer_comm _ _ ▸ h
  obtain ⟨t, hmem, hhits, heq⟩ | ⟨hmiss, heq⟩ := firstMatch_cases us w
  · exact (firstMatch_of_pairwise_differ hd' (hperm.mem_iff.mpr hmem) hhits).trans heq.symm
  · exact (firstMatch_of_all_miss fun t ht => hmiss t (hperm.mem_iff.mp ht)).trans heq.symm

/-- Settles O7: the rows differ pairwise, so that no word matches two and their order does not matter; the catch-all
matches every word. -/
theorem templateOrderHasNoEffect : Obligations.TemplateOrderHasNoEffect := by
  unfold Obligations.TemplateOrderHasNoEffect
  refine ⟨rows_pairwise_differ.imp not_both_match_of_rowsDiffer,
    fun r hr => ⟨r.2, expected_matches_row r hr, catchAll_hits r.2⟩, fun p ts w hp hperm => ⟨?_, ?_⟩⟩
  · rw [firstMatch_append_catchAll, decodeWord_of_or2_none hp]
    exact firstMatch_perm (specificTemplates_pairwise_differ p) hperm w
  · simp only [decodeWord_of_or2_none hp, firstMatch_eq_inv_iff, true_and, hperm.mem_iff, Bool.eq_false_iff, ne_eq,
      Template.hits_iff_and]

/-! ## The second `or` template (R69, D6) -/

theorem firstMatch_append_of_miss {ts : List Template} {w : Word} (h : ∀ t ∈ ts, t.hits w = false)
    (us : List Template) : firstMatch (ts ++ us) w = firstMatch us w := by
  induction ts with
  | nil => rfl
  | cons t ts ih =>
    obtain ⟨ht, hts⟩ := List.forall_mem_cons.mp h
    exact (firstMatch_cons_of_miss _ ht).trans (ih hts)

theorem firstMatch_append_of_hit {ts : List Template} {w : Word} (h : ∃ t ∈ ts, t.hits w = true)
    (us : List Template) : firstMatch (ts ++ us) w = firstMatch ts w := by
  induction ts with
  | nil => exact absurd h (by simp)
  | cons t ts ih =>
    rw [List.cons_append]
    cases ht : t.hits w with
    | true => rw [firstMatch_cons_of_hits _ ht, firstMatch_cons_of_hits _ ht]
    | false =>
      rw [firstMatch_cons_of_miss _ ht, firstMatch_cons_of_miss _ ht]
      exact ih (by simpa [ht] using h)

/-- The table with the second `or` template at its position of the table without it. -/
theorem templateTable_of_or2 {p : Params} {o : Or2} (hp : p.or2 = some o) :
    templateTable p = (templateTable { p with or2 := none }).take o.position
      ++ or2Template o :: (templateTable { p with or2 := none }).drop o.position := by
  rw [templateTable, hp]
  rfl

/-- Settles O9, by where the scan of the table with the template inserted stops. -/
theorem secondOrTemplate : Obligations.SecondOrTemplate := by
  unfold Obligations.SecondOrTemplate
  intro p o w hp
  have hsplit := List.take_append_drop o.position (templateTable { p with or2 := none })
  simp only [decodeWord, templateTable_of_or2 hp]
  refine ⟨fun ⟨hw, hearlier⟩ => ?_, fun hw => ?_, fun hearlier => ?_⟩
  · rw [firstMatch_append_of_miss hearlier, firstMatch_cons_of_hits _ ((Template.hits_iff_and _ _).mpr hw),
      build_or2Template]
  · obtain h | ⟨hhits, -⟩ := firstMatch_insert ((templateTable { p with or2 := none }).take o.position)
      ((templateTable { p with or2 := none }).drop o.position) (or2Template o) w
    · rw [h, hsplit]
    · exact absurd ((Template.hits_iff_and _ _).mp hhits) hw
  · rw [firstMatch_append_of_hit hearlier]
    conv_rhs => rw [← hsplit, firstMatch_append_of_hit hearlier]

/-! ## The fields that are ignored (R71, D31) -/

theorem encodeHint15_eq_or (op : BitVec 17) (k : BitVec 15) :
    encodeHint15 op k = op.setWidth 32 <<< 15 ||| k.setWidth 32 := by
  apply BitVec.eq_of_getLsbD_eq
  intro i hi
  rw [encodeHint15, BitVec.getLsbD_append]
  by_cases hlow : i < 15
  · simp [hlow, hi]
  · have hhigh : k.getLsbD i = false := BitVec.getLsbD_of_ge k i (Nat.le_of_not_lt hlow)
    simp [hlow, hi, hhigh]

/-- The opcode's bits joined to any value of inst[14:0] are the word of the instruction with that value. -/
theorem decodeWord_hint15 {p : Params} {i : Instr} {op : BitVec 17} {k : BitVec 15} {opcode : Word}
    (hwf : i.wellFormed p = true) (henc : encode i = encodeHint15 op k) (hop : op.setWidth 32 <<< 15 = opcode) :
    decodeWord p (opcode ||| k.setWidth 32) = i := by
  rw [← hop, ← encodeHint15_eq_or, ← henc]
  exact decodeOfEncodeIsIdentity p i hwf

/-- Settles O10: each word is the encoding of its instruction, which decodes to it; the meanings do not read the
field. -/
theorem ignoredFieldsHaveNoEffect : Obligations.IgnoredFieldsHaveNoEffect := by
  unfold Obligations.IgnoredFieldsHaveNoEffect
  refine ⟨fun p k hp => ⟨?_, ?_, ?_⟩, fun j k s => ⟨rfl, rfl, rfl⟩⟩
  · exact decodeWord_hint15 (by simp [Instr.wellFormed, takenByOr2_of_none hp]) rfl (by decide)
  · exact decodeWord_hint15 (by simp [Instr.wellFormed, takenByOr2_of_none hp]) rfl (by decide)
  · exact decodeWord_hint15 (by simp [Instr.wellFormed, takenByOr2_of_none hp]) rfl (by decide)

end Sys2Proof
end

section
/-! PROOFS. Requests after a store (20_memory.md R43, R46, R49): loads of every width and the fetch see the bytes of the
stored word. -/

namespace Sys2Proof.Machine

/-! ## Reading a stored word -/

/-- A byte of the written request holds its byte of the value (R34, R43). -/
theorem byteOf_of_writeRaw {t : State} {m : Memory} {a v : Word} {n i : Nat} (hmem : t.mem = writeRaw m a n v)
    (hn : n ≤ 2 ^ 32) (hi : i < n) : byteOf t a i = v.extractLsb' (8 * i) 8 := by
  have hread : memRead t.mem (byteAddr a i) = some (v.extractLsb' (8 * i) 8) := by
    rw [hmem, memRead_writeRaw_byteAddr m a v hn hi]
  calc byteOf t a i
      = (memRead t.mem (byteAddr a i)).getD (Config.initialByte (byteAddr a i)) := rfl
    _ = v.extractLsb' (8 * i) 8 := by rw [hread, Option.getD_some]

theorem byteOf_add (s : State) (a : Word) (n k : Nat) : byteOf s (a + BitVec.ofNat 32 n) k = byteOf s a (n + k) := by
  rw [byteOf, byteOf, BitVec.ofNat_add, BitVec.add_assoc]

theorem wordOfBytes_extractLsb' (v : Word) :
    wordOfBytes (v.extractLsb' 0 8) (v.extractLsb' 8 8) (v.extractLsb' 16 8) (v.extractLsb' 24 8) = v := by
  rw [wordOfBytes, BitVec.extractLsb'_append_extractLsb'_eq_extractLsb' (by rfl),
    BitVec.extractLsb'_append_extractLsb'_eq_extractLsb' (by rfl),
    BitVec.extractLsb'_append_extractLsb'_eq_extractLsb' (by rfl), BitVec.extractLsb'_eq_self]

/-- A word request where a word was written reads that word. -/
theorem readRaw_of_writeRaw {t : State} {m : Memory} {a v : Word} (hmem : t.mem = writeRaw m a 4 v) :
    t.readRaw a 4 = v := by
  have hbyte : ∀ i, i < 4 → byteOf t a i = v.extractLsb' (8 * i) 8 := fun i hi =>
    byteOf_of_writeRaw hmem (by decide) hi
  rw [readRaw_word_eq_wordOfBytes, hbyte 0 (by decide), hbyte 1 (by decide), hbyte 2 (by decide), hbyte 3 (by decide)]
  exact wordOfBytes_extractLsb' v

/-- Bits of a word extended with zeros, in arithmetic. -/
theorem setWidth_extractLsb' (v : Word) (start len : Nat) :
    (v.extractLsb' start len).setWidth 32 = BitVec.ofNat 32 (v.toNat / 2 ^ start % 2 ^ len) := by
  apply BitVec.eq_of_toNat_eq
  rw [BitVec.toNat_setWidth, BitVec.extractLsb'_toNat, Nat.shiftRight_eq_div_pow, BitVec.toNat_ofNat]

/-- Two adjacent bytes of a word are 16 of its bits. -/
theorem extractLsb'_append_bytes (v : Word) (n : Nat) :
    v.extractLsb' (8 * (n + 1)) 8 ++ v.extractLsb' (8 * n) 8 = v.extractLsb' (8 * n) 16 :=
  BitVec.extractLsb'_append_extractLsb'_eq_extractLsb' (Nat.mul_succ 8 n)

/-! ## The state after `st.w` -/

/-- An admitted `st.w` stores its data register and retires (44_loadstore.md R154). -/
theorem eq_of_exec_stW {rd rj : RegIdx} {si12 : BitVec 12} {s t : State}
    (hadm : s.admits (effectiveAddr s rj si12) .word .store = true) (h : exec (.stW rd rj si12) s = .next t) :
    t = (s.store (effectiveAddr s rj si12) 4 (s.reg rd)).retire (s.pc + 4) := by
  have hstore : exec (.stW rd rj si12) s
      = .next ((s.store (effectiveAddr s rj si12) 4 (s.reg rd)).retire (s.pc + 4)) := congrArg _ (if_pos hadm)
  cases h.symm.trans hstore
  rfl

/-- Settles O29: each load reads the bytes of the stored word that its request covers. -/
theorem narrowLoadsSeeStoredWord : Obligations.NarrowLoadsSeeStoredWord := by
  unfold Obligations.NarrowLoadsSeeStoredWord
  rintro rd rj rb r1 si12 k s t ea v rfl rfl hadm hexec
  have hmem : t.mem = writeRaw s.mem (effectiveAddr s rj si12) 4 (s.reg rd) :=
    congrArg State.mem (eq_of_exec_stW hadm hexec)
  have hbyte : ∀ n k, n + k < 4 → byteOf t (effectiveAddr s rj si12 + BitVec.ofNat 32 n) k
      = (s.reg rd).extractLsb' (8 * (n + k)) 8 := fun n k hnk => by
    rw [byteOf_add, byteOf_of_writeRaw hmem (by decide) hnk]
  refine ⟨fun hea hload => ?_, fun n hn hea hload => ?_, fun n hn hea hload => ?_⟩ <;> rw [← hea] at hload
  · refine yields_of_loadInto rfl hload ?_
    rw [hea]
    exact readRaw_of_writeRaw hmem
  · refine yields_of_loadInto rfl hload ((zextByte_readRaw t _).trans ?_)
    rw [hea, hbyte n 0 hn, Nat.add_zero, setWidth_extractLsb']
  · refine yields_of_loadInto rfl hload ((zextHalf_readRaw t _).trans ?_)
    have hlow : byteOf t (effectiveAddr s rj si12 + BitVec.ofNat 32 n) 0 = (s.reg rd).extractLsb' (8 * n) 8 :=
      hbyte n 0 (by omega)
    rw [hea, hlow, hbyte n 1 (by omega), extractLsb'_append_bytes, setWidth_extractLsb']

/-- Settles O47: the next fetch reads the stored word, under the same parameters. -/
theorem nextStepRunsStoredWord : Obligations.NextStepRunsStoredWord := by
  unfold Obligations.NextStepRunsStoredWord
  intro rd rj si12 s t hrun hea hadm hexec hfetch
  have ht := eq_of_exec_stW (hea.symm ▸ hadm) hexec
  have hstored : t.readRaw t.pc 4 = s.reg rd := by
    rw [ht, retire_pc, hea]
    exact readRaw_of_writeRaw rfl
  have hparams : t.params = s.params := by rw [ht, retire_params, store_params]
  have hrun' : t.status = .running := by rw [ht, retire_status, store_status, hrun]
  rw [step_of_fetched hrun' (fetched_of_admits hfetch), hstored, hparams]

/-! ## The word that the host places (log entries 10, 11) -/

/-- Every byte of a written request has been written. -/
theorem written_of_writeRaw {t : State} {m : Memory} {a v : Word} {w : Width}
    (hmem : t.mem = writeRaw m a (widthBytes w) v) : t.written a w = true := by
  refine List.all_eq_true.mpr fun i hi => ?_
  rw [hmem, memRead_writeRaw_byteAddr m a v ((widthBytes_le_four w).trans (by decide)) (List.mem_range.mp hi),
    Option.isSome_some]

/-- Where the memory takes every address and alignment, a request for written bytes is admitted. -/
theorem admits_of_written {s : State} {a : Word} {w : Width} (hall : s.params.memAdmits = .everything)
    (halign : s.params.alignedOnly = false) (hw : s.written a w = true) (k : AccessKind) : s.admits a w k = true := by
  simp [State.admits, addressesAdmit, hall, halign, hw]

/-- Only the optional rows depend on the parameters (30_encoding.md R72). -/
theorem specificTemplates_congr {p q : Params} (h : p.pSlti = q.pSlti) : specificTemplates p = specificTemplates q := by
  rw [specificTemplates, specificTemplates, h]

theorem mem_specificTemplates {p : Params} {t : Template} (h : t ∈ specificTemplates p) :
    t ∈ specificTemplates Params.standard ∨ t ∈ templatesOptional := by
  simp only [specificTemplates, List.mem_append] at h ⊢
  obtain (hmandatory | hoptional) | hbreak := h
  · exact .inl (.inl (.inl hmandatory))
  · split_ifs at hoptional
    · exact .inr hoptional
    · cases hoptional
  · exact .inl (.inr hbreak)

/-- A word of no optional row is decoded as in the standard table. -/
theorem firstMatch_of_not_optionalWord {w : Word} (hw : optionalWord w = false) (p : Params) :
    firstMatch (specificTemplates p) w = firstMatch (specificTemplates Params.standard) w := by
  have hopt : ∀ t ∈ templatesOptional, t.hits w = false := by simpa [optionalWord] using hw
  obtain ⟨t, hmem, hhits, heq⟩ | ⟨hmiss, heq⟩ := firstMatch_cases (specificTemplates Params.standard) w <;> rw [heq]
  · exact firstMatch_of_pairwise_differ (specificTemplates_pairwise_differ p)
      (specificTemplates_standard_subset p hmem) hhits
  · exact firstMatch_of_all_miss fun t ht => (mem_specificTemplates ht).elim (hmiss t) (hopt t)

/-- Two tables that have the optional rows alike, or a word of none of these rows: the word decodes alike. -/
theorem decodeWord_eq_of_pSlti {p q : Params} {w : Word} (hp : p.or2 = none) (hq : q.or2 = none)
    (hopt : optionalWord w = true → p.pSlti = q.pSlti) : decodeWord p w = decodeWord q w := by
  rw [decodeWord_of_or2_none hp, decodeWord_of_or2_none hq]
  cases hw : optionalWord w with
  | true => rw [specificTemplates_congr (hopt hw)]
  | false => rw [firstMatch_of_not_optionalWord hw p, firstMatch_of_not_optionalWord hw q]

/-- A row of the table decodes as its word does with the optional rows. -/
theorem decodeTableWord_eq (nbits w : Nat) :
    decodeTableWord nbits w = some (decodeWord Params.allRows (tableWord nbits w)) :=
  congrArg (fun v => some (decodeWord Params.allRows v)) (wordOfBytes_extractLsb' (tableWord nbits w))

/-- The placed word is decoded with the optional rows if it is one of theirs, and alike with or without them if not. -/
theorem decodeWord_loadAtPc {s : State} (hor2 : s.params.or2 = none) (w : Word) :
    decodeWord (s.loadAtPc w).params w = decodeWord Params.allRows w := by
  refine decodeWord_eq_of_pSlti hor2 rfl fun hopt => ?_
  simp [State.loadAtPc, Params.allRows, hopt]

/-- The next fetch after the host has loaded a word reads it, where the memory takes every request. -/
theorem fetched_loadAtPc {s : State} (hall : s.params.memAdmits = .everything) (halign : s.params.alignedOnly = false)
    (w : Word) : (s.loadAtPc w).fetched = .ok (decodeWord (s.loadAtPc w).params w) := by
  have hmem : (s.loadAtPc w).mem = writeRaw s.mem (s.loadAtPc w).pc (widthBytes .word) w := rfl
  have hadm : (s.loadAtPc w).admits (s.loadAtPc w).pc .word .fetch = true :=
    admits_of_written (s := s.loadAtPc w) hall halign (written_of_writeRaw hmem) .fetch
  rw [fetched_of_admits hadm, readRaw_of_writeRaw hmem]

/-- Settles O53: the placed word is what the fetch reads, and the host supplies the table with the optional rows if the
word is one of theirs. -/
theorem fetchWordIsRunNext : Obligations.FetchWordIsRunNext := by
  unfold Obligations.FetchWordIsRunNext
  intro s w i hrun hor2 hall halign hdec
  have hi : decodeWord Params.allRows (tableWord 32 w) = i :=
    Option.some.inj ((decodeTableWord_eq 32 w).symm.trans hdec)
  refine step_of_fetched hrun ((fetched_loadAtPc hall halign (tableWord 32 w)).trans ?_)
  rw [decodeWord_loadAtPc hor2, hi]

end Sys2Proof.Machine
end

section
/-! PROOFS. Requests the memory does not take (20_memory.md R36 to R38; 70_reset_and_hazards.md R209, D21): unaligned
ones, and reads of bytes nothing has written. -/

namespace Sys2Proof.Machine

theorem exec_of_loadForm {i : Instr} {rj : RegIdx} {si12 : BitVec 12} {w : Width} (s : State)
    (hi : loadForm i = some (rj, si12, w)) :
    ∃ f rd, exec i s = .next (s.loadInto w f rd (effectiveAddr s rj si12)) := by
  cases i with
  | ldB rd | ldH rd | ldW rd | ldBu rd | ldHu rd => cases hi; exact ⟨_, rd, rfl⟩
  | _ => cases hi

theorem admits_of_unaligned {s : State} {a : Word} {w : Width} (hal : s.params.alignedOnly = true)
    (ha : a.toNat % widthBytes w ≠ 0) (k : AccessKind) : s.admits a w k = false := by
  simp [State.admits, hal, ha]

/-- Settles O31: the memory takes no unaligned request, and each request that it does not take faults. -/
theorem alignedMemoryRefusesUnaligned : Obligations.AlignedMemoryRefusesUnaligned := by
  unfold Obligations.AlignedMemoryRefusesUnaligned
  refine ⟨fun i s rj si12 w hal hea => ⟨fun hform => ?_, fun hform => ?_⟩, fun s hal hrun hpc => ?_⟩
  · obtain ⟨f, rd, hexec⟩ := exec_of_loadForm s hform
    rw [hexec, loadInto_rejected (admits_of_unaligned hal hea .load)]
  · obtain ⟨rd, hexec⟩ := exec_of_storeForm s hform
    rw [hexec, storeFrom_rejected (admits_of_unaligned hal hea .store)]
  · exact step_of_rejected_fetch hrun (admits_of_unaligned hal hpc .fetch)

/-! ## Bytes that nothing has written (log entry 3) -/

theorem written_byte (s : State) (a : Word) : s.written a .byte = (memRead s.mem a.toNat).isSome := by
  simp [State.written, widthBytes, List.range_succ, byteAddr_zero]

theorem admits_of_not_written {s : State} {a : Word} {w : Width} (hset : s.params.unwritten = .rejected)
    (hw : s.written a w = false) : s.admits a w .load = false := by
  simp [State.admits, hset, hw]

/-- A byte request has no alignment, so where every address exists and any byte can be read, all are admitted. -/
theorem admits_byte_of_anyValue {s : State} (hset : s.params.unwritten = .anyValue)
    (hall : s.params.memAdmits = .everything) (a : Word) (k : AccessKind) : s.admits a .byte k = true := by
  simp [State.admits, addressesAdmit, widthBytes, hset, hall, Nat.mod_one]

theorem byteOf_of_unwritten {s : State} {a : Word} (h : memRead s.mem a.toNat = none) :
    byteOf s a 0 = Config.initialByte a.toNat := by
  rw [byteOf, State.byteAt]
  simp [h]

/-- Settles O32: the request is refused under `rejected`; under `anyValue` it reads the initial byte. -/
theorem unwrittenByteRead : Obligations.UnwrittenByteRead := by
  unfold Obligations.UnwrittenByteRead
  rintro rd rj si12 s ea rfl hnone
  refine ⟨fun hset => ?_, fun hset hall => ?_⟩
  · have hw : s.written (effectiveAddr s rj si12) .byte = false := by rw [written_byte, hnone, Option.isSome_none]
    exact congrArg _ (loadInto_rejected (admits_of_not_written hset hw) zextByte rd)
  · refine yields_of_loadInto rfl (admits_byte_of_anyValue hset hall _ .load) ((zextByte_readRaw s _).trans ?_)
    rw [byteOf_of_unwritten hnone]

end Sys2Proof.Machine
end
